-- ==== Sys2Proof/Word.lean ====
section
/-!
DEFINITION. The two data widths of the decoder: the input byte and data register (`BYTE_W` = 8) and the
coordinate (`COORD_W` = 16), spec/00_scope.md R7, each in one place. Every quantity is unsigned (R8).
-/

namespace Sys2Proof

/-- One received byte, and one data register: `BYTE_W` = 8 bits (R7, R11, R34). Bit 0 is the least significant (R8). -/
abbrev Byte := BitVec 8

/-- One coordinate of an event: `COORD_W` = 16 bits, unsigned (R7, R26). -/
abbrev Coord := BitVec 16

end Sys2Proof
end

