-- ==== Sys2Proof/Machine/Params.lean ====
section
/-!
DEFINITION. The parameters of spec/00_scope.md R7 whose value the spec fixes, each a named constant, so that an audit
of the literals (D14, U8, log entry 7) changes one line: every length, bound and width below is written with these
names. `BYTE_W` and `COORD_W` are the types `Byte` and `Coord` of Word.lean.
-/

namespace Sys2Proof.Params

/-- `MARK_PRESS` (R7, R46). -/
def markPress : Byte := 0xC8

/-- `MARK_RELEASE` (R7, R46). -/
def markRelease : Byte := 0x88

/-- `PAYLOAD_LEN` (R7, R11): how many data registers there are, and how many payload bytes a window has. -/
abbrev payloadLen : Nat := 4

/-- `FRAME_LEN` = 1 + `PAYLOAD_LEN` (R7, R45, R50). -/
abbrev frameLen : Nat := payloadLen + 1

/-- `COORD_NOMINAL_MAX` (R7, C2): the range the sink advertises; the decoder does not use it. -/
def coordNominalMax : Coord := 0x8000

/-- `RETAIN_KIND_ON_BAD_MARKER` (R7, R75, D13): true in this hardware. -/
def retainKindOnBadMarker : Bool := true

/-- `WI_W` (R7, R15, D8): the width in bits of `writeIndex`. -/
abbrev wiW : Nat := 3

/-- `KIND_W` (R7, R15, D9): the width in bits of `touchKind`. -/
abbrev kindW : Nat := 2

/-- `HAS_DIAG` (R7, R92, D7): the output `diag` exists. -/
def hasDiag : Bool := true

/-- A valid marker is a byte equal to one of the two literals, compared whole (R9, R46). -/
def isMarker (b : Byte) : Bool := b == markPress || b == markRelease

end Sys2Proof.Params
end

