-- ==== Sys2Proof/Config.lean ====
section
/-!
DEFINITION. What the spec leaves OPEN: the parameters of spec/00_scope.md R7 whose value it does not fix. Each is a
constant without a body, so nothing can be proved of its value. The parameters R7 does fix stand in
Machine/Params.lean (they are unaudited literals, N7 and U8, which a repair must be able to mend).
-/

namespace Sys2Proof.Config

/-- `PAYLOAD_RESET` (R7, R22, R110, D11): the byte the `draw`-th RESET leaves in data register `i`. A free value;
log entry 2. One value per draw, whichever instance draws it (log entry 23). -/
opaque payloadReset (draw : Nat) (i : Fin Params.payloadLen) : Byte

/-- `RESET_STYLE` (R7, D3): synchronous or asynchronous, active high or low. -/
structure ResetStyle where
  synchronous : Bool
  activeHigh  : Bool
  deriving DecidableEq, Repr, Inhabited

/-- `RESET_STYLE`, open; no rule depends on it (R110, D3) and nothing here reads it; log entry 9. -/
opaque resetStyle : ResetStyle

/-- `OUT_LATENCY`, clock cycles from the accepting edge to the outputs, open; no rule depends on it (R119, D5) and
nothing here reads it; log entry 9. -/
opaque outLatency : Nat

end Sys2Proof.Config
end

