-- ==== Sys2Proof/Syntax.lean ====
section
/-!
DEFINITION. The operations of the decoder (one constructor per row of spec/opcode_table.json), what stands on its
inputs when one is selected, and the stream notation of spec/30_encoding.md R52.
-/

namespace Sys2Proof

/-- The values of the position counter, 0 to `PAYLOAD_LEN` (R12, R23). -/
abbrev WriteIndex := Fin Params.frameLen

/-- The bytes of one frame, first fed byte first (R45): `FRAME_LEN` of them. -/
abbrev Frame := Vector Byte Params.frameLen

/-- The twelve operations of R48 and R53. A byte operation whose byte is not fixed by its row carries that byte. -/
inductive Instr where
  /-- `MARK_P` (R61). -/
  | markP
  /-- `MARK_R` (R62). -/
  | markR
  /-- `MARK_BAD` (R63), on the unrecognized byte `b`. -/
  | markBad (b : Byte)
  /-- `PAY_XH` (R64). -/
  | payXh (b : Byte)
  /-- `PAY_XL` (R65). -/
  | payXl (b : Byte)
  /-- `PAY_YH` (R66). -/
  | payYh (b : Byte)
  /-- `PAY_YL` (R67). -/
  | payYl (b : Byte)
  /-- `HOLD` (R69): no byte is offered. -/
  | hold
  /-- `RESET` (R110). -/
  | reset
  /-- `PRESS x, y` (R80): the five bytes of a press frame. -/
  | press (x y : Coord)
  /-- `RELEASE x, y` (R81): the five bytes of a release frame. -/
  | release (x y : Coord)
  /-- `JUNK m, b1, b2, b3, b4` (R82): five bytes whose first is no marker. -/
  | junk (m b1 b2 b3 b4 : Byte)
  deriving DecidableEq, Repr

/-- The input ports in one step (R121): `rst` (reset is requested), `in_valid` and `in_byte`. -/
structure Sample where
  rst     : Bool
  inValid : Bool
  inByte  : Byte
  deriving DecidableEq, Repr

/-- What the environment offers for one operation: the ports of one step, or the bytes of one frame (R45), which
are as many byte steps (R80; log entry 5). -/
inductive Offer where
  | sample (p : Sample)
  | frame (bytes : Frame)
  deriving DecidableEq, Repr

/-- The ports while the byte `b` is offered: the call of `feed` (R121, D1). -/
def Offer.byte (b : Byte) : Offer := .sample ⟨false, true, b⟩

/-- The ports while nothing is offered (`in_byte` is then ignored, D6; written as 0). -/
def Offer.idle : Offer := .sample ⟨false, false, 0⟩

/-- The ports while reset is requested and no byte is offered. -/
def Offer.rst : Offer := .sample ⟨true, false, 0⟩

/-- One line of the stream notation (R52, D18). -/
inductive Directive where
  | press (x y : Coord)
  | release (x y : Coord)
  | junk (m b1 b2 b3 b4 : Byte)
  | byte (b : Byte)
  | reset
  | hold
  deriving DecidableEq, Repr

end Sys2Proof
end

