-- ==== Sys2Proof/WellFormed.lean ====
section
/-!
DEFINITION. Which operations are terms of the spec: the unrecognized byte of `MARK_BAD` and the first byte of `JUNK`
are not one of the two markers (spec/40_byte_operations.md R63, spec/41_frame_operations.md R82). Every other operand
takes every value (spec/30_encoding.md R51).
-/

namespace Sys2Proof

/-- The operand check. -/
def Instr.wellFormed : Instr → Bool
  | .markBad b => !Params.isMarker b
  | .junk m _ _ _ _ => !Params.isMarker m
  | .markP => true
  | .markR => true
  | .payXh _ => true
  | .payXl _ => true
  | .payYh _ => true
  | .payYl _ => true
  | .hold => true
  | .reset => true
  | .press _ _ => true
  | .release _ _ => true

end Sys2Proof
end

