-- ==== Sys2Proof/Decode.lean ====
section
/-!
DEFINITION. Selecting the operation (spec/30_encoding.md R48, R53) and, after it, the encoder written from the same
tables. A byte selects by its position `wi0` and, at `wi0` = 0 only, by its value; the selection is total. The
`FRAME_LEN` bytes fed from marker position are a frame, named by the first (R45, R52). Only a byte list too short to
hold what is asked of it is rejected, by name.
-/

namespace Sys2Proof

/-- Why a list of bytes holds no operation. -/
inductive DecodeReject where
  /-- No byte: nothing selects a byte operation (R48). -/
  | noByte
  /-- Fewer than `FRAME_LEN` bytes: a frame in progress (R50, R122), `got` of its bytes received. -/
  | partialFrame (got : Nat)
  deriving DecidableEq, Repr

/-- The operation map of R48: what the byte `b` selects at `wi0`. -/
def decodeByte (wi0 : WriteIndex) (b : Byte) : Instr :=
  match wi0 with
  | 0 => if b = Params.markPress then .markP else if b = Params.markRelease then .markR else .markBad b
  | 1 => .payXh b
  | 2 => .payXl b
  | 3 => .payYh b
  | 4 => .payYl b

/-- The frame-level operation a frame's bytes are (R45, R53): named by the first byte, `x` and `y` big-endian (R31). -/
def decodeFrame (f : Frame) : Instr :=
  if f.get 0 = Params.markPress then .press (f.get 1 ++ f.get 2) (f.get 3 ++ f.get 4)
  else if f.get 0 = Params.markRelease then .release (f.get 1 ++ f.get 2) (f.get 3 ++ f.get 4)
  else .junk (f.get 0) (f.get 1) (f.get 2) (f.get 3) (f.get 4)

/-- The bytes as a frame, if there are `FRAME_LEN` of them (R50). -/
def Frame.ofList? (bytes : List Byte) : Option Frame :=
  if h : bytes.length = Params.frameLen then some ⟨bytes.toArray, h⟩ else none

/-- The operation of one step's ports (R121): reset wins over a byte (R94, D3); without `in_valid` it is HOLD (R69). -/
def decodeSample (wi0 : WriteIndex) (p : Sample) : Instr :=
  if p.rst then .reset else if p.inValid then decodeByte wi0 p.inByte else .hold

/-- The operation an offer selects at `wi0`. -/
def decode (wi0 : WriteIndex) : Offer → Instr
  | .sample p => decodeSample wi0 p
  | .frame f => decodeFrame f

/-- The first byte operation of a byte stream met at `wi0`, with the rest of the stream. -/
def decodeBytes (wi0 : WriteIndex) : List Byte → Except DecodeReject (Instr × List Byte)
  | [] => .error .noByte
  | b :: rest => .ok (decodeByte wi0 b, rest)

/-- The first frame of a byte stream met at marker position, with the rest (the disassembly of R52). That a shorter list
is rejected by name, with its length, is the model's (DESIGN CHOICE, log entry 21). -/
def decodeFrameBytes (bytes : List Byte) : Except DecodeReject (Instr × List Byte) :=
  match Frame.ofList? (bytes.take Params.frameLen) with
  | some f => .ok (decodeFrame f, bytes.drop Params.frameLen)
  | none => .error (.partialFrame bytes.length)

/-- The `wi0` at which a byte operation is selected (R48); none for an operation no byte selects. -/
def Instr.position? : Instr → Option WriteIndex
  | .markP => some 0
  | .markR => some 0
  | .markBad _ => some 0
  | .payXh _ => some 1
  | .payXl _ => some 2
  | .payYh _ => some 3
  | .payYl _ => some 4
  | .hold => none
  | .reset => none
  | .press _ _ => none
  | .release _ _ => none
  | .junk _ _ _ _ _ => none

/-- The high byte of a coordinate, sent first (R31, R45). -/
def highByte (c : Coord) : Byte := c.extractLsb' 8 8

/-- The low byte of a coordinate (R31, R45). -/
def lowByte (c : Coord) : Byte := c.extractLsb' 0 8

/-- The bytes of a valid frame, in the order fed (R45). -/
def frameBytes (marker : Byte) (x y : Coord) : Frame :=
  #v[marker, highByte x, lowByte x, highByte y, lowByte y]

/-- The bytes of a discarded frame, in the order fed (R52, R82). -/
def junkBytes (m b1 b2 b3 b4 : Byte) : Frame := #v[m, b1, b2, b3, b4]

/-- The bytes of an operation, first fed byte first (R45, R48, R52). -/
def Instr.bytes : Instr → List Byte
  | .markP => [Params.markPress]
  | .markR => [Params.markRelease]
  | .markBad b => [b]
  | .payXh b => [b]
  | .payXl b => [b]
  | .payYh b => [b]
  | .payYl b => [b]
  | .hold => []
  | .reset => []
  | .press x y => (frameBytes Params.markPress x y).toList
  | .release x y => (frameBytes Params.markRelease x y).toList
  | .junk m b1 b2 b3 b4 => (junkBytes m b1 b2 b3 b4).toList

/-- How many bytes the operation table gives an operation (`width_bits`, `bytes`; R50). -/
def Instr.byteCount : Instr → Nat
  | .markP => 1
  | .markR => 1
  | .markBad _ => 1
  | .payXh _ => 1
  | .payXl _ => 1
  | .payYh _ => 1
  | .payYl _ => 1
  | .hold => 0
  | .reset => 0
  | .press _ _ => Params.frameLen
  | .release _ _ => Params.frameLen
  | .junk _ _ _ _ _ => Params.frameLen

/-- The byte of a byte operation; none for the others. -/
def Instr.byte? (i : Instr) : Option Byte := if i.byteCount = 1 then i.bytes.head? else none

/-- The encoder: what the environment offers so that `i` is selected. -/
def encode : Instr → Offer
  | .markP => .byte Params.markPress
  | .markR => .byte Params.markRelease
  | .markBad b => .byte b
  | .payXh b => .byte b
  | .payXl b => .byte b
  | .payYh b => .byte b
  | .payYl b => .byte b
  | .hold => .idle
  | .reset => .rst
  | .press x y => .frame (frameBytes Params.markPress x y)
  | .release x y => .frame (frameBytes Params.markRelease x y)
  | .junk m b1 b2 b3 b4 => .frame (junkBytes m b1 b2 b3 b4)

/-- The bytes, or ports, a line of the stream notation assembles to, one offer a step (R52). A `JUNK` line whose `m` is
a marker is no line of the notation, and R52 says nothing of its assembly; that it assembles to its bytes like any
other is the model's (DESIGN CHOICE, log entry 22). -/
def Directive.assemble : Directive → List Offer
  | .press x y => (frameBytes Params.markPress x y).toList.map .byte
  | .release x y => (frameBytes Params.markRelease x y).toList.map .byte
  | .junk m b1 b2 b3 b4 => (junkBytes m b1 b2 b3 b4).toList.map .byte
  | .byte b => [.byte b]
  | .reset => [.rst]
  | .hold => [.idle]

/-- A program assembles to the concatenation of its directives' offers, in order (R52). -/
def assemble (program : List Directive) : List Offer := program.flatMap Directive.assemble

/-- The frames of a stream met with the bytes `got` of a frame in progress, and the bytes of the one in progress at its
end. -/
def disassembleFrom (got : List Byte) : List Byte → List Instr × List Byte
  | [] => ([], got)
  | b :: rest =>
    match Frame.ofList? (got ++ [b]) with
    | some f => (decodeFrame f :: (disassembleFrom [] rest).1, (disassembleFrom [] rest).2)
    | none => disassembleFrom (got ++ [b]) rest

/-- The disassembly of a stream met at marker position (R52): cut into groups of `FRAME_LEN` bytes, each named by its
first byte; with the bytes of a frame in progress at the end. -/
def disassemble (bytes : List Byte) : List Instr × List Byte := disassembleFrom [] bytes

/-- What stands on the inputs for an instruction given as `nbits` bits of `w`. No bits: nothing is offered. The 40
bits of a frame are numbered as spec/opcode_table.json numbers them (byte 0 is bits 39 to 32, `x` bits 31 to 16, `y`
bits 15 to 0). Any other width up to 40 is the one byte in the low 8 bits. Log entry 12. -/
def offerOfTableWord (nbits w : Nat) : Option Offer :=
  if nbits = 0 then some .idle
  else if nbits = 8 * Params.frameLen then
    some (.frame (Vector.ofFn fun i => BitVec.ofNat 8 (w >>> (8 * (Params.payloadLen - i)))))
  else if nbits < 8 * Params.frameLen then some (.byte (BitVec.ofNat 8 w))
  else none

/-- The instruction read from a table word at marker position, where the first byte after reset stands (R110). -/
def decodeTableWord (nbits w : Nat) : Option Instr := (offerOfTableWord nbits w).map (decode 0)

end Sys2Proof
end

