-- ==== Sys2Proof/Machine/State.lean ====
section
/-!
DEFINITION. The state of one decoder (spec/10_state.md R10), what the environment holds beside it, the output of a
step, and the state after reset (R22). There is no memory (spec/20_memory.md R30).
-/

namespace Sys2Proof.Machine

/-- `touchKind` (R13): the status latch. -/
inductive TouchKind where
  | none
  | pressed
  | released
  deriving DecidableEq, Repr

/-- `phase` (R14), a view of `writeIndex`, not stored. -/
inductive Phase where
  | idle
  | awaitingPayload
  deriving DecidableEq, Repr

/-- The data registers `payload[0]` to `payload[PAYLOAD_LEN - 1]` (R11). -/
abbrev Payload := Vector Byte Params.payloadLen

/-- The whole state of one decoder instance, the document's `DecoderState` (R10, R18). -/
structure Decoder where
  payload    : Payload
  /-- The position counter (R12, R23). -/
  writeIndex : WriteIndex
  touchKind  : TouchKind
  deriving DecidableEq, Repr

/-- The emitted value `TouchEvent` (R26). -/
structure TouchEvent where
  x       : Coord
  y       : Coord
  pressed : Bool
  deriving DecidableEq, Repr

/-- The outputs of one step (R25): the optional event and the diagnostic bit (R92). Values, not decoder state. -/
structure StepOut where
  evt  : Option TouchEvent
  diag : Bool
  deriving DecidableEq, Repr

/-- The output of a step that emits nothing and signals nothing. -/
def StepOut.silent : StepOut := ⟨.none, false⟩

/-- The decoder with its environment. `dec` is the hardware's state; the other fields are not the decoder's
(R18, R30). -/
structure State where
  dec    : Decoder
  /-- What the byte source will offer, next offer first; empty: nothing is offered (R120, R121; log entry 3). -/
  source : List Offer
  /-- What the environment has been given, one output per step, oldest first (R37, R122; log entry 4). No operation
  reads it. -/
  sink   : List StepOut
  /-- The model's own: how many RESETs have drawn their free payload (log entry 2). -/
  draws  : Nat
  deriving DecidableEq, Repr

/-- The reasons a decoder stops with a fault: none. "A model has no exception type and no fault outcome for the
decoder; `feed` is total" (spec/60_exceptions.md R90; log entry 6). -/
inductive Fault where
  deriving DecidableEq, Repr

/-- The reasons an instruction is refused. -/
inductive Refusal where
  /-- Raised by an arm of `exec` whose instruction has no meaning yet; safe. Every instruction has one, so nothing
  raises it. -/
  | notModelled (mnemonic : String)
  deriving DecidableEq, Repr

/-- The machine after reset (R22, R110): `writeIndex` 0, `touchKind` None, and, where the spec states no value, the
data registers 0 (DESIGN CHOICE, log entry 1, unsafe). Nothing is offered yet and nothing has been output. -/
def State.reset : State where
  dec    := { payload := Vector.replicate Params.payloadLen 0, writeIndex := 0, touchKind := .none }
  source := []
  sink   := []
  draws  := 0

end Sys2Proof.Machine
end

