-- ==== Sys2Proof/Machine/Operands.lean ====
section
/-!
DEFINITION. The operand forms: the indexed access to the data registers (spec/20_memory.md R33) and the assembly of
the two coordinates (spec/30_encoding.md R47).
-/

namespace Sys2Proof.Machine

/-- `payload[i]` (R8, R33). -/
def Payload.get (p : Payload) (i : Fin Params.payloadLen) : Byte := Vector.get p i

/-- `payload[i] <- b` (R8, R33): one whole register (R34). -/
def Payload.set (p : Payload) (i : Fin Params.payloadLen) (b : Byte) : Payload := Vector.set p i.val b i.isLt

/-- `payload[0]`, X high (R11). -/
abbrev Payload.xh (p : Payload) : Byte := p.get 0

/-- `payload[1]`, X low (R11). -/
abbrev Payload.xl (p : Payload) : Byte := p.get 1

/-- `payload[2]`, Y high (R11). -/
abbrev Payload.yh (p : Payload) : Byte := p.get 2

/-- `payload[3]`, Y low (R11). -/
abbrev Payload.yl (p : Payload) : Byte := p.get 3

/-- The index `wi0 - 1` of a payload store (R33, R72), a register's (R17). It is used at `wi0` from 1 on only (R71). -/
def payloadIndex (wi0 : WriteIndex) : Fin Params.payloadLen :=
  ⟨wi0.val - 1, by
    have h : wi0.val < Params.payloadLen + 1 := wi0.isLt
    have h' : 0 < Params.payloadLen := by decide
    omega⟩

/-- `(high << 8) | low`, each byte zero-extended to 16 bits first (R47). -/
def assembleCoord (high low : Byte) : Coord := (high.zeroExtend 16 <<< 8) ||| low.zeroExtend 16

/-- The event the four data registers and the latch make (R47). -/
def assembleEvent (p : Payload) (k : TouchKind) : TouchEvent where
  x       := assembleCoord p.xh p.xl
  y       := assembleCoord p.yh p.yl
  pressed := k == .pressed

end Sys2Proof.Machine
end

