-- ==== Sys2Proof/Machine/Flags.lean ====
section
/-!
DEFINITION. The control fields: the latch, the position counter, the derived phase, the diagnostic bit, and the bit
image of the state (spec/10_state.md R12 to R15, R23).
-/

namespace Sys2Proof.Machine

/-- `touchKind` is Pressed or Released: the window carries a valid frame (R13, R98). -/
def TouchKind.accepting (k : TouchKind) : Bool := k != .none

/-- The position of the last byte of a window, `PAYLOAD_LEN` (R12). -/
def lastIndex : WriteIndex := Fin.last Params.payloadLen

/-- The counter rule of every byte step: wrap after the last, else increment (R12, R70). -/
def nextIndex (wi0 : WriteIndex) : WriteIndex := if wi0 = lastIndex then 0 else wi0 + 1

/-- `phase` is Idle exactly at `writeIndex` = 0 (R14, D10). -/
def Decoder.phase (d : Decoder) : Phase := if d.writeIndex = 0 then .idle else .awaitingPayload

/-- `diag` of a byte step (R92): an unrecognized byte at marker position, where the signal exists (`HAS_DIAG`). -/
def diagOf (wi0 : WriteIndex) (b : Byte) : Bool := Params.hasDiag && wi0 == 0 && !Params.isMarker b

/-- `wi[2:0]`, plain binary (R15, D8). -/
def indexBits (wi : WriteIndex) : BitVec Params.wiW := BitVec.ofNat Params.wiW wi.val

/-- The value of `wi[2:0]`; 5, 6 and 7 are not values (R23, D8, D15). -/
def indexOfBits (v : BitVec Params.wiW) : Option WriteIndex :=
  if h : v.toNat < Params.frameLen then some ⟨v.toNat, h⟩ else none

/-- `kind[1:0]` (R13, R15, D9). -/
def TouchKind.bits : TouchKind → BitVec Params.kindW
  | .none => 0b00
  | .pressed => 0b01
  | .released => 0b10

/-- The value of `kind[1:0]`; 0b11 is not a value (R23, D9, D15). -/
def TouchKind.ofBits (v : BitVec Params.kindW) : Option TouchKind :=
  if v = 0b00 then some .none else if v = 0b01 then some .pressed else if v = 0b10 then some .released
  else Option.none

/-- The stored bits of a decoder, field by field with the widths of R10: 4 x 8 + 3 + 2 = 37. -/
structure RegisterImage where
  payload : Payload
  wi      : BitVec Params.wiW
  kind    : BitVec Params.kindW
  deriving DecidableEq, Repr

/-- The bits a state is stored as (R10, R15). -/
def Decoder.image (d : Decoder) : RegisterImage :=
  ⟨d.payload, indexBits d.writeIndex, d.touchKind.bits⟩

/-- The state that bits represent; none for a pattern that is no value of the state (R23, D15, U6; log entry 11). -/
def RegisterImage.decoder? (r : RegisterImage) : Option Decoder :=
  match indexOfBits r.wi, TouchKind.ofBits r.kind with
  | some wi, some k => some ⟨r.payload, wi, k⟩
  | _, _ => none

end Sys2Proof.Machine
end

