-- ==== Sys2Proof/Machine/Ops.lean ====
section
/-!
DEFINITION. The step `feed` (spec/40_byte_operations.md R60), the reset operation
(spec/70_reset_and_hazards.md R110), and how a step's outputs reach the environment. The decoder takes no exception:
its one error class is absorbed (spec/60_exceptions.md R90, R95), so there is no exception entry and no return.
-/

namespace Sys2Proof.Machine

/-- Step 1 of `feed`, at marker position: classify the byte. With the flag `retain` false an unrecognized byte also
clears the latch (R75). -/
def Decoder.classify (retain : Bool) (d : Decoder) (b : Byte) : Decoder :=
  if b = Params.markPress then { d with touchKind := .pressed }
  else if b = Params.markRelease then { d with touchKind := .released }
  else if retain then d else { d with touchKind := .none }

/-- Step 2 of `feed`, at a payload position: store the byte if the latch is Pressed or Released; otherwise nothing is
stored (D12; log entry 8). -/
def Decoder.store (d : Decoder) (b : Byte) : Decoder :=
  if d.touchKind.accepting then { d with payload := d.payload.set (payloadIndex d.writeIndex) b } else d

/-- Step 3 of `feed`, when the window is complete: the event, if the latch is Pressed or Released. -/
def Decoder.completed (d : Decoder) : Option TouchEvent :=
  if d.touchKind.accepting then some (assembleEvent d.payload d.touchKind) else none

/-- The whole of `feed` (R60) under a setting of `RETAIN_KIND_ON_BAD_MARKER` (R75). -/
def Decoder.feedWith (retain : Bool) (d : Decoder) (b : Byte) : Decoder × StepOut :=
  let wi0 := d.writeIndex
  let d1 := if wi0 = 0 then d.classify retain b else d.store b
  let evt := if wi0 = lastIndex then d1.completed else none
  let kind := if wi0 = lastIndex then .none else d1.touchKind
  (⟨d1.payload, nextIndex wi0, kind⟩, ⟨evt, diagOf wi0 b⟩)

/-- `feed(b)` of this hardware (R60). -/
def Decoder.feed (d : Decoder) (b : Byte) : Decoder × StepOut := d.feedWith Params.retainKindOnBadMarker b

/-- The payload the `draw`-th RESET leaves: free bytes (R22, R110, D11; log entry 2). They are keyed by the draw alone,
so two instances (R100) whose `draws` are equal are left equal bytes; the spec does not say that they are (DESIGN
CHOICE, log entry 23). -/
def drawnPayload (draw : Nat) : Payload := Vector.ofFn (Config.payloadReset draw)

/-- One step's outcome: the decoder's next state, and its outputs delivered to the environment once, after those of
the earlier steps (R37, R42). -/
def State.commit (s : State) (r : Decoder × StepOut) : State := { s with dec := r.1, sink := s.sink ++ [r.2] }

/-- One byte step. -/
def State.feedByte (s : State) (b : Byte) : State := s.commit (s.dec.feed b)

/-- The byte steps of a list of bytes, in order (R37). -/
def State.feedBytes (s : State) : List Byte → State
  | [] => s
  | b :: rest => (s.feedByte b).feedBytes rest

end Sys2Proof.Machine
end

