-- ==== Sys2Proof/Machine/Control.lean ====
section
/-!
DEFINITION. The operations no byte selects: `HOLD` (spec/40_byte_operations.md R69) and `RESET`
(spec/70_reset_and_hazards.md R110).
-/

namespace Sys2Proof.Machine

/-- `HOLD` (R69): the decoder keeps its state and outputs nothing. -/
def execHold (s : State) : Host.Outcome State Fault Refusal := .next (s.commit (s.dec, .silent))

/-- `RESET` (R110), from any state (R111): position 0, latch None, four free bytes of payload, no event and no
`diag`. -/
def execReset (s : State) : Host.Outcome State Fault Refusal :=
  .next { s.commit (⟨drawnPayload s.draws, 0, .none⟩, .silent) with draws := s.draws + 1 }

end Sys2Proof.Machine
end

