-- ==== Sys2Proof/Machine/Frames.lean ====
section
/-!
DEFINITION. The frame-level operations (spec/41_frame_operations.md R80 to R82): the five byte steps of a frame. Which
byte operations they are depends on where the decoder's window stands (spec/30_encoding.md R52, spec/20_memory.md
R32).
-/

namespace Sys2Proof.Machine

/-- `PRESS x, y` (R80). -/
def execPress (x y : Coord) (s : State) : Host.Outcome State Fault Refusal :=
  .next (s.feedBytes (frameBytes Params.markPress x y).toList)

/-- `RELEASE x, y` (R81). -/
def execRelease (x y : Coord) (s : State) : Host.Outcome State Fault Refusal :=
  .next (s.feedBytes (frameBytes Params.markRelease x y).toList)

/-- `JUNK m, b1, b2, b3, b4` (R82). -/
def execJunk (m b1 b2 b3 b4 : Byte) (s : State) : Host.Outcome State Fault Refusal :=
  .next (s.feedBytes (junkBytes m b1 b2 b3 b4).toList)

end Sys2Proof.Machine
end

