-- ==== Sys2Proof/Machine/Marks.lean ====
section
/-!
DEFINITION. The marker-position operations (spec/40_byte_operations.md R61 to R63). Each is selected at `wi0` = 0 and
has there the effect of its rule; asked for elsewhere, its byte is fed, and its position decides what it is
(spec/20_memory.md R32 item 3, R40; log entry 13). `step` never asks for it elsewhere.
-/

namespace Sys2Proof.Machine

/-- The effect of `MARK_P` (R61). -/
def Decoder.markP (d : Decoder) : Decoder × StepOut :=
  ({ d with touchKind := .pressed, writeIndex := 1 }, .silent)

/-- The effect of `MARK_R` (R62). -/
def Decoder.markR (d : Decoder) : Decoder × StepOut :=
  ({ d with touchKind := .released, writeIndex := 1 }, .silent)

/-- The effect of `MARK_BAD` (R63, R95) under a setting of the flag (R75). -/
def Decoder.markBad (retain : Bool) (d : Decoder) : Decoder × StepOut :=
  ({ d with touchKind := if retain then d.touchKind else .none, writeIndex := 1 }, ⟨none, Params.hasDiag⟩)

/-- `MARK_P` (R61). -/
def execMarkP (s : State) : Host.Outcome State Fault Refusal :=
  .next (s.commit (if s.dec.writeIndex = 0 then s.dec.markP else s.dec.feed Params.markPress))

/-- `MARK_R` (R62). -/
def execMarkR (s : State) : Host.Outcome State Fault Refusal :=
  .next (s.commit (if s.dec.writeIndex = 0 then s.dec.markR else s.dec.feed Params.markRelease))

/-- `MARK_BAD` on the byte `b` (R63). -/
def execMarkBad (b : Byte) (s : State) : Host.Outcome State Fault Refusal :=
  .next (s.commit (if s.dec.writeIndex = 0 ∧ Params.isMarker b = false
    then s.dec.markBad Params.retainKindOnBadMarker else s.dec.feed b))

end Sys2Proof.Machine
end

