-- ==== Sys2Proof/Machine/Pay.lean ====
section
/-!
DEFINITION. The payload-position operations (spec/40_byte_operations.md R64 to R67). Each is selected at its own `wi0`
and has there the effect of its rule; asked for elsewhere, its byte is fed (log entry 13, as in Machine/Marks.lean).
-/

namespace Sys2Proof.Machine

/-- The effect of `PAY_XH` (R64). -/
def Decoder.payXh (d : Decoder) (b : Byte) : Decoder × StepOut :=
  ({ d with payload := if d.touchKind.accepting then d.payload.set 0 b else d.payload, writeIndex := 2 },
    .silent)

/-- The effect of `PAY_XL` (R65). -/
def Decoder.payXl (d : Decoder) (b : Byte) : Decoder × StepOut :=
  ({ d with payload := if d.touchKind.accepting then d.payload.set 1 b else d.payload, writeIndex := 3 },
    .silent)

/-- The effect of `PAY_YH` (R66). -/
def Decoder.payYh (d : Decoder) (b : Byte) : Decoder × StepOut :=
  ({ d with payload := if d.touchKind.accepting then d.payload.set 2 b else d.payload, writeIndex := 4 },
    .silent)

/-- The effect of `PAY_YL` (R67): the low byte of `y` is the byte of this very step, and `pressed` is the latch before
it is cleared (R117). -/
def Decoder.payYl (d : Decoder) (b : Byte) : Decoder × StepOut :=
  if d.touchKind.accepting then
    (⟨d.payload.set 3 b, 0, .none⟩,
      ⟨some { x := assembleCoord d.payload.xh d.payload.xl, y := assembleCoord d.payload.yh b,
              pressed := d.touchKind == .pressed }, false⟩)
  else ({ d with writeIndex := 0 }, .silent)

/-- `PAY_XH` (R64). -/
def execPayXh (b : Byte) (s : State) : Host.Outcome State Fault Refusal :=
  .next (s.commit (if s.dec.writeIndex = 1 then s.dec.payXh b else s.dec.feed b))

/-- `PAY_XL` (R65). -/
def execPayXl (b : Byte) (s : State) : Host.Outcome State Fault Refusal :=
  .next (s.commit (if s.dec.writeIndex = 2 then s.dec.payXl b else s.dec.feed b))

/-- `PAY_YH` (R66). -/
def execPayYh (b : Byte) (s : State) : Host.Outcome State Fault Refusal :=
  .next (s.commit (if s.dec.writeIndex = 3 then s.dec.payYh b else s.dec.feed b))

/-- `PAY_YL` (R67). -/
def execPayYl (b : Byte) (s : State) : Host.Outcome State Fault Refusal :=
  .next (s.commit (if s.dec.writeIndex = 4 then s.dec.payYl b else s.dec.feed b))

end Sys2Proof.Machine
end

