-- ==== Sys2Proof/Machine/Dispatch.lean ====
section
/-!
DEFINITION. One arm per operation of spec/opcode_table.json, each a call of its meaning.
-/

namespace Sys2Proof.Machine

def exec (i : Instr) (s : State) : Host.Outcome State Fault Refusal :=
  match i with
  | .markP => Sys2Proof.Machine.execMarkP s
  | .markR => Sys2Proof.Machine.execMarkR s
  | .markBad b => Sys2Proof.Machine.execMarkBad b s
  | .payXh b => Sys2Proof.Machine.execPayXh b s
  | .payXl b => Sys2Proof.Machine.execPayXl b s
  | .payYh b => Sys2Proof.Machine.execPayYh b s
  | .payYl b => Sys2Proof.Machine.execPayYl b s
  | .hold => Sys2Proof.Machine.execHold s
  | .reset => Sys2Proof.Machine.execReset s
  | .press x y => Sys2Proof.Machine.execPress x y s
  | .release x y => Sys2Proof.Machine.execRelease x y s
  | .junk m b1 b2 b3 b4 => Sys2Proof.Machine.execJunk m b1 b2 b3 b4 s

end Sys2Proof.Machine
end

