-- ==== Sys2Proof/Machine/Fetch.lean ====
section
/-!
DEFINITION. Fetching: the byte source's next offer is read and the operation it selects at the present position is
found (spec/20_memory.md R40, spec/70_reset_and_hazards.md R121).
-/

namespace Sys2Proof.Machine

/-- The operation of the next step, and the state with its offer consumed. With nothing offered it is HOLD (R69). -/
def State.fetch (s : State) : Instr × State :=
  match s.source with
  | [] => (.hold, s)
  | o :: rest => (decode s.dec.writeIndex o, { s with source := rest })

/-- `s` with the instruction of a table word standing first in what the byte source offers (log entries 3 and 12). -/
def State.placeTableWord (s : State) (nbits w : Nat) : State :=
  match offerOfTableWord nbits w with
  | some o => { s with source := o :: s.source }
  | none => s

end Sys2Proof.Machine
end

