-- ==== Sys2Proof/Machine/Instances.lean ====
section
/-!
DEFINITION. Several connections: independent copies of the one-instance machine (spec/60_exceptions.md R100,
spec/20_memory.md R37 item 4). Which instance moves next is the environment's choice, so it is an argument.
The free bytes a RESET leaves are keyed by the draw, not by the instance (log entry 23).
-/

namespace Sys2Proof.Machine

/-- A step of instance `k` of a list of decoders; with no such instance nothing happens. -/
def stepInstance (ms : List State) (k : Nat) : Host.Outcome (List State) Fault Refusal :=
  match ms[k]? with
  | none => .next ms
  | some m =>
    match step m with
    | .next m' => .next (ms.set k m')
    | .fault r => .fault r
    | .refused r => .refused r

end Sys2Proof.Machine
end

