-- ==== Sys2Proof/Machine/Ports.lean ====
section
/-!
DEFINITION. The output ports of spec/70_reset_and_hazards.md R121 as a view of a step's output.
-/

namespace Sys2Proof.Machine

/-- The levels of the output ports in one step (R121). -/
structure OutPorts where
  evtValid      : Bool
  evtX          : BitVec 16
  evtY          : BitVec 16
  evtPressed    : Bool
  diagBadMarker : Bool
  deriving DecidableEq, Repr

/-- The levels show the output: with an event its three fields together (R35); without one the field ports may hold
any value (D4, U7; log entry 10). -/
def OutPorts.shows (p : OutPorts) (o : StepOut) : Bool :=
  p.diagBadMarker == o.diag &&
  match o.evt with
  | some e => p.evtValid && p.evtX == e.x && p.evtY == e.y && p.evtPressed == e.pressed
  | none => !p.evtValid

end Sys2Proof.Machine
end

