-- ==== Sys2Proof/Safety.lean ====
section
/-!
DEFINITION. The terms claims are stated in: the invariant of spec/10_state.md R20, the tables and closed forms of
spec/40_byte_operations.md R74 and spec/41_frame_operations.md R84 restated on their own (they call neither `feed` nor
`exec`), and runs of bytes and of programs.
-/

namespace Sys2Proof.Machine

/-- A safe run of `n` steps: it ends in a state, with no fault and no refusal on the way. -/
def SafeRun (n : Nat) (s : State) : Prop := ∃ t, Sys2Proof.core.run n s = .next t

/-- R20: at marker position the latch is None. -/
abbrev Decoder.MarkerInvariant (d : Decoder) : Prop := d.writeIndex = 0 → d.touchKind = .none

/-- Two decoders in the same control state, whatever their data registers hold (R23). -/
def Decoder.SameControl (d e : Decoder) : Prop := d.writeIndex = e.writeIndex ∧ d.touchKind = e.touchKind

/-- The byte classes of the transition table: `M`, `N` and `o` of R74. -/
inductive ByteClass where
  | press
  | release
  | other
  deriving DecidableEq, Repr

/-- The class of a byte, by the literals of R45. -/
def classOf (b : Byte) : ByteClass := if b = 0xC8 then .press else if b = 0x88 then .release else .other

/-- The operation column of R74 (and the operation map of R48), for the byte `b`. -/
def tableOperation : WriteIndex → ByteClass → Byte → Instr
  | 0, .press, _ => .markP
  | 0, .release, _ => .markR
  | 0, .other, b => .markBad b
  | 1, _, b => .payXh b
  | 2, _, b => .payXl b
  | 3, _, b => .payYh b
  | 4, _, b => .payYl b

/-- A row of the transition table, right of the operation: the next control state, which register is stored into, what
`pressed` an event carries if one is emitted, and `diag`. -/
structure TableRow where
  writeIndex : Fin 5
  touchKind  : TouchKind
  stored     : Option (Fin 4)
  event      : Option Bool
  diag       : Bool
  deriving DecidableEq, Repr

/-- The two tables of R74, row by row: the reachable control states and the two that are not. -/
def transitionTable : Fin 5 → TouchKind → ByteClass → TableRow
  | 0, .none, .press => ⟨1, .pressed, none, none, false⟩
  | 0, .none, .release => ⟨1, .released, none, none, false⟩
  | 0, .none, .other => ⟨1, .none, none, none, true⟩
  | 1, .none, _ => ⟨2, .none, none, none, false⟩
  | 2, .none, _ => ⟨3, .none, none, none, false⟩
  | 3, .none, _ => ⟨4, .none, none, none, false⟩
  | 4, .none, _ => ⟨0, .none, none, none, false⟩
  | 1, .pressed, _ => ⟨2, .pressed, some 0, none, false⟩
  | 2, .pressed, _ => ⟨3, .pressed, some 1, none, false⟩
  | 3, .pressed, _ => ⟨4, .pressed, some 2, none, false⟩
  | 4, .pressed, _ => ⟨0, .none, some 3, some true, false⟩
  | 1, .released, _ => ⟨2, .released, some 0, none, false⟩
  | 2, .released, _ => ⟨3, .released, some 1, none, false⟩
  | 3, .released, _ => ⟨4, .released, some 2, none, false⟩
  | 4, .released, _ => ⟨0, .none, some 3, some false, false⟩
  | 0, .pressed, .press => ⟨1, .pressed, none, none, false⟩
  | 0, .released, .press => ⟨1, .pressed, none, none, false⟩
  | 0, .pressed, .release => ⟨1, .released, none, none, false⟩
  | 0, .released, .release => ⟨1, .released, none, none, false⟩
  | 0, .pressed, .other => ⟨1, .pressed, none, none, true⟩
  | 0, .released, .other => ⟨1, .released, none, none, true⟩

/-- The byte is one of the two markers, by the literals of R45. -/
def markerValue (b : Byte) : Bool := b == 0xC8 || b == 0x88

/-- Byte `n` of a stream (0 past its end, which no use below reaches). -/
def byteAt (bytes : List Byte) (n : Nat) : Byte := bytes.getD n 0

/-- The closed form of R84: the output of the step that consumes byte `n` of the stream fed since reset. -/
def closedFormOut (bytes : List Byte) (n : Nat) : StepOut where
  evt :=
    if n % 5 = 4 ∧ markerValue (byteAt bytes (n - 4)) = true then
      some { x := byteAt bytes (n - 3) ++ byteAt bytes (n - 2), y := byteAt bytes (n - 1) ++ byteAt bytes n,
             pressed := byteAt bytes (n - 4) == 0xC8 }
    else none
  diag := n % 5 == 0 && !markerValue (byteAt bytes n)

/-- The closed form of R84: the latch after the whole stream, fed since reset. -/
def closedFormKind (bytes : List Byte) : TouchKind :=
  if bytes.length % 5 = 0 then .none
  else if byteAt bytes (bytes.length - bytes.length % 5) = 0xC8 then .pressed
  else if byteAt bytes (bytes.length - bytes.length % 5) = 0x88 then .released
  else .none

/-- The outputs of feeding a list of bytes under a setting of `RETAIN_KIND_ON_BAD_MARKER` (R75), with the end state. -/
def Decoder.feedAllWith (retain : Bool) (d : Decoder) : List Byte → Decoder × List StepOut
  | [] => (d, [])
  | b :: rest =>
    let (d1, o) := d.feedWith retain b
    let (d2, os) := d1.feedAllWith retain rest
    (d2, o :: os)

/-- The events among outputs, in emission order (R37). -/
def eventsOf (outs : List StepOut) : List TouchEvent := outs.filterMap StepOut.evt

end Sys2Proof.Machine

namespace Sys2Proof

/-- No byte and no reset is offered: the step is HOLD (R69, R121). -/
def Offer.isIdle : Offer → Bool
  | .sample p => !p.rst && !p.inValid
  | .frame _ => false

/-- What one line of the stream notation has the decoder do (R52; for a `JUNK` line that is none, log entry 22). -/
def Directive.exec (l : Directive) (s : Machine.State) :
    Host.Outcome Machine.State Machine.Fault Machine.Refusal :=
  match l with
  | .press x y => Machine.exec (.press x y) s
  | .release x y => Machine.exec (.release x y) s
  | .junk m b1 b2 b3 b4 => Machine.exec (.junk m b1 b2 b3 b4) s
  | .byte b => Machine.exec (decodeByte s.dec.writeIndex b) s
  | .reset => Machine.exec .reset s
  | .hold => Machine.exec .hold s

end Sys2Proof

namespace Sys2Proof.Machine

/-- The lines of a program in order, stopping where one stops (R52). -/
def runProgram : List Directive → State → Host.Outcome State Fault Refusal
  | [], s => .next s
  | l :: rest, s =>
    match l.exec s with
    | .next s' => runProgram rest s'
    | .fault r => .fault r
    | .refused r => .refused r

end Sys2Proof.Machine
end

