-- ==== Sys2Proof/Certificates/Slice0/Obligations.lean ====
section
/-!
DEFINITION. The statements about the model. Each is named for what it says and cites the rules of spec/ it rests on;
OBLIGATIONS.json lists them. An output is written `⟨event, diag⟩`. An equation `exec i s = .next t` is at once the
instruction's result, its completion and its frame: what `t` does not change is unchanged.

`source`, `sink` and `draws` are the model's records of the environment and its counter of free values (DESIGN CHOICE,
log entries 3, 4 and 2): what a statement says of them is the model's form of what R25, R37 and R121 say of inputs and
outputs.
-/

open Sys2Proof Sys2Proof.Machine

/-! ## Reset, phase, encoding -/

/-- R22, R14: what reset leaves, of what the spec gives (nothing is said of the data registers, log entry 1). -/
def Obligations.ResetIsIdleWithNoTouch : Prop :=
  State.reset.dec.writeIndex = 0 ∧ State.reset.dec.touchKind = .none ∧ State.reset.dec.phase = .idle

/-- R14. -/
def Obligations.PhaseIsAViewOfWriteIndex : Prop :=
  (∀ d : Decoder, (d.phase = .idle ↔ d.writeIndex = 0) ∧
    (d.phase = .awaitingPayload ↔ 1 ≤ d.writeIndex.val ∧ d.writeIndex.val ≤ 4)) ∧
  State.reset.dec.phase = .idle

/-- R45, R48: words of every format, written out from the spec's encoding; a 40-bit word is numbered as the table numbers
it (log entry 12). -/
def Obligations.SpecWordsDecode : Prop :=
  decodeTableWord 8 0b11001000 = some .markP ∧
  decodeTableWord 8 0b10001000 = some .markR ∧
  decodeTableWord 8 0b11001001 = some (.markBad 0xC9) ∧
  decodeByte 1 0xC8 = .payXh 0xC8 ∧
  decodeByte 2 0x34 = .payXl 0x34 ∧
  decodeByte 3 0x88 = .payYh 0x88 ∧
  decodeByte 4 0x78 = .payYl 0x78 ∧
  decode 3 (.sample ⟨false, false, 0xC8⟩) = .hold ∧
  decode 3 (.sample ⟨true, false, 0⟩) = .reset ∧
  decodeTableWord 40 0b1100100000010010001101000101011001111000 = some (.press 0x1234 0x5678) ∧
  decodeTableWord 40 0b1000100000000000000000010000000000000010 = some (.release 1 2) ∧
  decodeTableWord 40 0b1111111100010001001000100011001101000100 = some (.junk 0xFF 0x11 0x22 0x33 0x44)

/-- R48, the table of the operation map, row by row. -/
def Obligations.OperationMapRows : Prop :=
  ∀ b : Byte,
    (b = 0xC8 → decodeByte 0 b = .markP) ∧
    (b = 0x88 → decodeByte 0 b = .markR) ∧
    (b ≠ 0xC8 → b ≠ 0x88 → decodeByte 0 b = .markBad b) ∧
    decodeByte 1 b = .payXh b ∧ decodeByte 2 b = .payXl b ∧ decodeByte 3 b = .payYh b ∧ decodeByte 4 b = .payYl b

/-- R48: "The selection is total: every pair … selects exactly one row." -/
def Obligations.EveryByteSelectsExactlyOneOperation : Prop :=
  ∀ (wi0 : Fin 5) (b : Byte) (i : Instr),
    (i.wellFormed = true ∧ i.position? = some wi0 ∧ i.byte? = some b) ↔ i = decodeByte wi0 b

/-- R46, R49: the marker is matched as a whole byte, and the 254 other values are all alike. -/
def Obligations.MarkersAreMatchedAsWholeBytes : Prop :=
  (∀ b : Byte, decodeByte 0 b = .markP ↔ b = 0xC8) ∧
  (∀ b : Byte, decodeByte 0 b = .markR ↔ b = 0x88) ∧
  (∀ b : Byte, decodeByte 0 b = .markBad b ↔ b ≠ 0xC8 ∧ b ≠ 0x88) ∧
  ((List.range 256).filter fun n => decodeByte 0 (BitVec.ofNat 8 n) == .markBad (BitVec.ofNat 8 n)).length = 254

/-- R45: the two 40-bit patterns, byte 0 leftmost, numbered as the table numbers them (log entry 12). -/
def Obligations.FramePatternsDecode : Prop :=
  ∀ x y : BitVec 16,
    decodeTableWord 40 ((0b11001000#8 ++ (x ++ y)).toNat) = some (.press x y) ∧
    decodeTableWord 40 ((0b10001000#8 ++ (x ++ y)).toNat) = some (.release x y)

/-- R45, R48: decoding an encoded operation gives it back, at the position that selects it (any, for an operation no
byte selects). That a frame-level operation is one offer is the model's choice (log entry 5). -/
def Obligations.DecodeOfEncodeIsTheInstruction : Prop :=
  ∀ (i : Instr) (wi0 : Fin 5), i.wellFormed = true → (∀ p, i.position? = some p → p = wi0) →
    decode wi0 (encode i) = i

/-- R48, R82: what is decoded is well-formed, and encoding it gives back the bytes that were decoded. That
the bytes of a frame may be one offer, decoded whole, is the model's choice (log entry 5). -/
def Obligations.DecodedOperationsKeepTheirBytes : Prop :=
  (∀ (wi0 : Fin 5) (o : Offer), (decode wi0 o).wellFormed = true) ∧
  (∀ (wi0 : Fin 5) (b : Byte), encode (decode wi0 (.byte b)) = .byte b) ∧
  (∀ (wi0 : Fin 5) (f : Frame), encode (decode wi0 (.frame f)) = .frame f)

/-- The first clause is the model's choice (DESIGN CHOICE, log entry 21), no rule of the spec: a list shorter than five
bytes is rejected by name, as `partialFrame` with its length. The second rests on R45, R50 and R52: five bytes or more
hold a frame. -/
def Obligations.PartialFramesAreRejectedByName : Prop :=
  (∀ bytes : List Byte, bytes.length < 5 → decodeFrameBytes bytes = .error (.partialFrame bytes.length)) ∧
  (∀ bytes : List Byte, 5 ≤ bytes.length →
    ∃ i rest, decodeFrameBytes bytes = .ok (i, rest) ∧ i.bytes ++ rest = bytes ∧ i.byteCount = 5 ∧ i.wellFormed = true)

/-- R52: the disassembly of a stream met at marker position is unique: it has the stream's bytes, and any well-formed
frames with fewer than five bytes after them are what their bytes disassemble to. -/
def Obligations.DisassemblyIsUnique : Prop :=
  (∀ bytes : List Byte, (disassemble bytes).1.flatMap Instr.bytes ++ (disassemble bytes).2 = bytes ∧
    (disassemble bytes).2.length = bytes.length % 5) ∧
  (∀ (frames : List Instr) (tail : List Byte), (∀ i ∈ frames, i.byteCount = 5 ∧ i.wellFormed = true) →
    tail.length < 5 → disassemble (frames.flatMap Instr.bytes ++ tail) = (frames, tail))

/-! ## The step -/

/-- R6, R48, R69: a step runs what its offer selects at the present position, the offer consumed first; with nothing
offered it runs HOLD. Two parts of it are the model's choices and no rule of the spec: that the offers to come are held
in `source` and the first is consumed (DESIGN CHOICE, log entry 3), and, in the first clause, that an offer may be a
whole frame, which is then run in one step of the model although one step of R6 is one byte (DESIGN CHOICE, log entry
5). -/
def Obligations.StepRunsTheDecodedOperation : Prop :=
  (∀ (s : State) (o : Offer) (rest : List Offer), s.source = o :: rest →
    step s = exec (decode s.dec.writeIndex o) { s with source := rest }) ∧
  (∀ s : State, s.source = [] → step s = exec .hold s)

/-- R94, R111: reset wins over a byte offered in the same step, and the byte is lost. -/
def Obligations.ResetWinsOverAByte : Prop :=
  ∀ (s : State) (valid : Bool) (b : Byte) (rest : List Offer), s.source = .sample ⟨true, valid, b⟩ :: rest →
    step s = exec .reset { s with source := rest }

/-- Log entry 12 (the model's numbering): the instruction of a table word, placed first, is what step runs. -/
def Obligations.PlacedTableWordIsWhatStepRuns : Prop :=
  ∀ (s : State) (nbits w : Nat) (i : Instr), s.dec.writeIndex = 0 → decodeTableWord nbits w = some i →
    step (s.withFetchWord nbits w) = exec i s

/-- R60, R90, R116: every step is enabled, every instruction completes, and no run of any length stops. For a byte
operation away from its own position, and for an ill-formed one, the second clause is the model's reading (DEDUCED, log
entry 13); that a step may run a whole frame is its choice (DESIGN CHOICE, log entry 5). -/
def Obligations.NothingEverStops : Prop :=
  (∀ s : State, ∃ t, step s = .next t) ∧
  (∀ (i : Instr) (s : State), ∃ t, exec i s = .next t) ∧
  (∀ (n : Nat) (s : State), SafeRun n s)

/-! ## The operations, one by one -/

/-- R61. -/
def Obligations.MarkPLatchesPressed : Prop :=
  ∀ s : State, s.dec.writeIndex = 0 →
    exec .markP s = .next { s with
      dec := { s.dec with writeIndex := 1, touchKind := .pressed }
      sink := s.sink ++ [⟨none, false⟩] }

/-- R62. -/
def Obligations.MarkRLatchesReleased : Prop :=
  ∀ s : State, s.dec.writeIndex = 0 →
    exec .markR s = .next { s with
      dec := { s.dec with writeIndex := 1, touchKind := .released }
      sink := s.sink ++ [⟨none, false⟩] }

/-- R63, R95: only the counter moves, and `diag` is 1. -/
def Obligations.MarkBadOpensAWindowAndKeepsTheLatch : Prop :=
  ∀ (b : Byte) (s : State), s.dec.writeIndex = 0 → b ≠ 0xC8 → b ≠ 0x88 →
    exec (.markBad b) s = .next { s with
      dec := { s.dec with writeIndex := 1 }
      sink := s.sink ++ [⟨none, true⟩] }

/-- R64. -/
def Obligations.PayXhStoresRegisterZero : Prop :=
  ∀ (b : Byte) (s : State), s.dec.writeIndex = 1 →
    exec (.payXh b) s = .next { s with
      dec := { s.dec with
        writeIndex := 2
        payload := if s.dec.touchKind = .pressed ∨ s.dec.touchKind = .released
          then s.dec.payload.set 0 b else s.dec.payload }
      sink := s.sink ++ [⟨none, false⟩] }

/-- R65. -/
def Obligations.PayXlStoresRegisterOne : Prop :=
  ∀ (b : Byte) (s : State), s.dec.writeIndex = 2 →
    exec (.payXl b) s = .next { s with
      dec := { s.dec with
        writeIndex := 3
        payload := if s.dec.touchKind = .pressed ∨ s.dec.touchKind = .released
          then s.dec.payload.set 1 b else s.dec.payload }
      sink := s.sink ++ [⟨none, false⟩] }

/-- R66. -/
def Obligations.PayYhStoresRegisterTwo : Prop :=
  ∀ (b : Byte) (s : State), s.dec.writeIndex = 3 →
    exec (.payYh b) s = .next { s with
      dec := { s.dec with
        writeIndex := 4
        payload := if s.dec.touchKind = .pressed ∨ s.dec.touchKind = .released
          then s.dec.payload.set 2 b else s.dec.payload }
      sink := s.sink ++ [⟨none, false⟩] }

/-- R67, both branches; the coordinates are written as the concatenations of R8 and R47. -/
def Obligations.PayYlCompletesTheWindow : Prop :=
  ∀ (b : Byte) (s : State), s.dec.writeIndex = 4 →
    ((s.dec.touchKind = .pressed ∨ s.dec.touchKind = .released) →
      exec (.payYl b) s = .next { s with
        dec := ⟨s.dec.payload.set 3 b, 0, .none⟩
        sink := s.sink ++ [⟨some ⟨s.dec.payload.xh ++ s.dec.payload.xl, s.dec.payload.yh ++ b,
          s.dec.touchKind == .pressed⟩, false⟩] }) ∧
    (s.dec.touchKind = .none →
      exec (.payYl b) s = .next { s with
        dec := { s.dec with writeIndex := 0 }
        sink := s.sink ++ [⟨none, false⟩] })

/-- R69: HOLD changes nothing and outputs nothing; it is what a step is when no byte is offered. -/
def Obligations.HoldChangesNothing : Prop :=
  (∀ s : State, exec .hold s = .next { s with sink := s.sink ++ [⟨none, false⟩] }) ∧
  (∀ (s : State) (b : Byte) (rest : List Offer), s.source = .sample ⟨false, false, b⟩ :: rest →
    step s = exec .hold { s with source := rest })

/-- R110, from any state (R111): position 0, latch None, some four bytes in the data registers (the rule leaves them
unspecified), no event and no `diag`; nothing of the environment's is touched but the output delivered. -/
def Obligations.ResetReturnsToMarkerPosition : Prop :=
  ∀ s : State, ∃ (p : Payload) (n : Nat),
    exec .reset s = .next ⟨⟨p, 0, .none⟩, s.source, s.sink ++ [⟨none, false⟩], n⟩

/-- Log entry 2 (the model's choice of how the open PAYLOAD_RESET of R7 is drawn): RESET takes the next four free
bytes and advances the draw, whatever else the state holds. It holds for every value of the free bytes. -/
def Obligations.ResetDrawsTheNextFreeBytes : Prop :=
  ∀ s : State, ∃ t, exec .reset s = .next t ∧ t.draws = s.draws + 1 ∧
    ∀ i : Fin 4, t.dec.payload.get i = Config.payloadReset s.draws i

/-- R80. -/
def Obligations.PressFrameEmitsItsCoordinates : Prop :=
  ∀ (x y : Coord) (s : State), s.dec.writeIndex = 0 →
    exec (.press x y) s = .next { s with
      dec := ⟨#v[x.extractLsb' 8 8, x.extractLsb' 0 8, y.extractLsb' 8 8, y.extractLsb' 0 8], 0, .none⟩
      sink := s.sink ++ [⟨none, false⟩, ⟨none, false⟩, ⟨none, false⟩, ⟨none, false⟩, ⟨some ⟨x, y, true⟩, false⟩] }

/-- R81. -/
def Obligations.ReleaseFrameEmitsItsCoordinates : Prop :=
  ∀ (x y : Coord) (s : State), s.dec.writeIndex = 0 →
    exec (.release x y) s = .next { s with
      dec := ⟨#v[x.extractLsb' 8 8, x.extractLsb' 0 8, y.extractLsb' 8 8, y.extractLsb' 0 8], 0, .none⟩
      sink := s.sink ++ [⟨none, false⟩, ⟨none, false⟩, ⟨none, false⟩, ⟨none, false⟩, ⟨some ⟨x, y, false⟩, false⟩] }

/-- R82, with its corner case: from the unreachable latch values the same bytes give an event. -/
def Obligations.JunkFrameLeavesTheDecoderUnchanged : Prop :=
  ∀ (m b1 b2 b3 b4 : Byte) (s : State), s.dec.writeIndex = 0 → m ≠ 0xC8 → m ≠ 0x88 →
    (s.dec.touchKind = .none →
      exec (.junk m b1 b2 b3 b4) s = .next { s with
        sink := s.sink ++ [⟨none, true⟩, ⟨none, false⟩, ⟨none, false⟩, ⟨none, false⟩, ⟨none, false⟩] }) ∧
    ((s.dec.touchKind = .pressed ∨ s.dec.touchKind = .released) →
      exec (.junk m b1 b2 b3 b4) s = .next { s with
        dec := ⟨#v[b1, b2, b3, b4], 0, .none⟩
        sink := s.sink ++ [⟨none, true⟩, ⟨none, false⟩, ⟨none, false⟩, ⟨none, false⟩,
          ⟨some ⟨b1 ++ b2, b3 ++ b4, s.dec.touchKind == .pressed⟩, false⟩] })

/-! ## Laws across the operations -/

/-- R32 item 3, R40 (log entry 13): what a byte operation does is decided by where its byte is fed; asked for away from
its own position, or with a byte that is another row's, it is the operation the map selects there. -/
def Obligations.PositionDecidesWhatAByteDoes : Prop :=
  ∀ (i : Instr) (b : Byte) (s : State), i.byte? = some b →
    exec i s = exec (decodeByte s.dec.writeIndex b) s

/-- R60: the byte operations, each from its own rule, are the one step function `feed` cut by `wi0` and byte. -/
def Obligations.FeedIsTheSevenOperations : Prop :=
  ∀ (s : State) (b : Byte),
    exec (decodeByte s.dec.writeIndex b) s
      = .next { s with dec := (s.dec.feed b).1, sink := s.sink ++ [(s.dec.feed b).2] }

/-- R74: a byte step follows the transition table, row for row, from all fifteen control states. -/
def Obligations.ByteStepsFollowTheTransitionTable : Prop :=
  ∀ (s : State) (b : Byte) (rest : List Offer), s.source = .byte b :: rest →
    ∃ t o, step s = .next t ∧ t.source = rest ∧ t.draws = s.draws ∧ t.sink = s.sink ++ [o] ∧
      decodeByte s.dec.writeIndex b = tableOperation s.dec.writeIndex (classOf b) b ∧
      (let row := transitionTable s.dec.writeIndex s.dec.touchKind (classOf b)
       t.dec.writeIndex = row.writeIndex ∧ t.dec.touchKind = row.touchKind ∧ o.diag = row.diag ∧
       (∀ j : Fin 4, t.dec.payload.get j = if row.stored = some j then b else s.dec.payload.get j) ∧
       o.evt = row.event.map fun pressed =>
        ⟨s.dec.payload.xh ++ s.dec.payload.xl, s.dec.payload.yh ++ b, pressed⟩)

/-- R12, R70: the counter's rule, for every step of the ports. -/
def Obligations.CounterAdvancesByOneAndWraps : Prop :=
  ∀ (s : State) (p : Sample) (rest : List Offer), s.source = .sample p :: rest →
    ∃ t, step s = .next t ∧
      t.dec.writeIndex.val =
        if p.rst then 0
        else if p.inValid then (if s.dec.writeIndex.val = 4 then 0 else s.dec.writeIndex.val + 1)
        else s.dec.writeIndex.val

/-- R92: `diag` is 1 exactly in the step of an unrecognized byte at marker position. -/
def Obligations.DiagSignalsExactlyBadMarkers : Prop :=
  ∀ (s : State) (p : Sample) (rest : List Offer), s.source = .sample p :: rest →
    ∃ t o, step s = .next t ∧ t.sink = s.sink ++ [o] ∧
      (o.diag = true ↔ p.rst = false ∧ p.inValid = true ∧ s.dec.writeIndex = 0 ∧ p.inByte ≠ 0xC8 ∧ p.inByte ≠ 0x88)

/-- R67, R85 item 6, R94: an event needs the counter to wrap from 4 to 0 under a set latch, clears the latch, and never
comes with `diag`. -/
def Obligations.OnlyTheCompletingStepEmits : Prop :=
  ∀ (s : State) (p : Sample) (rest : List Offer), s.source = .sample p :: rest →
    ∃ t o, step s = .next t ∧ t.sink = s.sink ++ [o] ∧
      (o.evt ≠ none ↔ p.rst = false ∧ p.inValid = true ∧ s.dec.writeIndex = 4 ∧ s.dec.touchKind ≠ .none) ∧
      (o.evt ≠ none → t.dec.writeIndex = 0 ∧ t.dec.touchKind = .none ∧ o.diag = false)

/-- R31, R47, R117: the coordinates are big-endian and unsigned, none is clamped, and the low byte of `y` is the byte of
the emitting step. -/
def Obligations.CoordinatesAreBigEndianAndUnclamped : Prop :=
  ∀ (b : Byte) (s : State), s.dec.writeIndex = 4 → s.dec.touchKind ≠ .none →
    ∃ t e, exec (.payYl b) s = .next t ∧ t.sink = s.sink ++ [⟨some e, false⟩] ∧
      e.x.toNat = 256 * s.dec.payload.xh.toNat + s.dec.payload.xl.toNat ∧
      e.y.toNat = 256 * s.dec.payload.yh.toNat + b.toNat ∧
      (e.pressed = true ↔ s.dec.touchKind = .pressed)

/-- R11, R72: a data register changes only by reset or by the payload store of its own position, under a set latch. -/
def Obligations.DataRegistersAreWrittenOnlyByTheirStore : Prop :=
  ∀ (s : State) (p : Sample) (rest : List Offer) (j : Fin 4), s.source = .sample p :: rest →
    ∃ t, step s = .next t ∧
      (t.dec.payload.get j ≠ s.dec.payload.get j →
        p.rst = true ∨
        (p.inValid = true ∧ s.dec.touchKind ≠ .none ∧ s.dec.writeIndex.val = j.val + 1 ∧
          t.dec.payload.get j = p.inByte))

/-- R13: the only ways the latch changes. -/
def Obligations.LatchChangesOnlyByMarkerCompletionOrReset : Prop :=
  ∀ (s : State) (p : Sample) (rest : List Offer), s.source = .sample p :: rest →
    ∃ t, step s = .next t ∧
      (t.dec.touchKind ≠ s.dec.touchKind →
        (p.rst = true ∧ t.dec.touchKind = .none) ∨
        (p.inValid = true ∧ s.dec.writeIndex = 0 ∧ p.inByte = 0xC8 ∧ t.dec.touchKind = .pressed) ∨
        (p.inValid = true ∧ s.dec.writeIndex = 0 ∧ p.inByte = 0x88 ∧ t.dec.touchKind = .released) ∨
        (p.inValid = true ∧ s.dec.writeIndex = 4 ∧ t.dec.touchKind = .none))

/-- R37, R42: an operation's outputs are delivered once, after all earlier ones, one per byte fed (one for HOLD and
RESET), and nothing else of the environment's is touched. An operation away from its own position, or ill-formed, feeds
its bytes (DEDUCED, log entry 13); a frame is five outputs of one step (log entry 5). -/
def Obligations.OutputsAreAppendedInStepOrder : Prop :=
  ∀ (i : Instr) (s : State), ∃ t outs, exec i s = .next t ∧ t.sink = s.sink ++ outs ∧
    outs.length = max 1 i.byteCount ∧ t.source = s.source

/-- R18, R42: what an operation does and outputs depends on the decoder alone (and, for RESET, on which free value is
drawn), never on what is still to come or on what was output before. For operations away from their own
position and ill-formed ones it rests on log entry 13 (DEDUCED). -/
def Obligations.OperationsIgnoreTheEnvironmentsRecords : Prop :=
  ∀ (i : Instr) (s t : State), s.dec = t.dec → s.draws = t.draws →
    ∃ (d : Decoder) (n : Nat) (outs : List StepOut),
      exec i s = .next ⟨d, s.source, s.sink ++ outs, n⟩ ∧ exec i t = .next ⟨d, t.source, t.sink ++ outs, n⟩

/-! ## Invariants and streams -/

/-- R20: reset meets the invariant. -/
def Obligations.ResetMeetsTheMarkerInvariant : Prop := State.reset.dec.MarkerInvariant

/-- R20: every step keeps it, a step that runs a whole frame (the model's choice, log entry 5) as well. -/
def Obligations.StepKeepsTheMarkerInvariant : Prop :=
  ∀ s : State, s.dec.MarkerInvariant → ∃ t, step s = .next t ∧ t.dec.MarkerInvariant

/-- R23: the control states a run from reset can reach are thirteen of the fifteen. It speaks of runs from the one state
after reset; the step lemma behind it is StepKeepsTheMarkerInvariant. The offers may be whole frames too (the model's
choice, log entry 5). -/
def Obligations.ReachableControlStates : Prop :=
  (∀ (wi : Fin 5) (k : TouchKind),
    (∃ (n : Nat) (offers : List Offer) (t : State),
      Sys2Proof.core.run n { State.reset with source := offers } = .next t ∧
        t.dec.writeIndex = wi ∧ t.dec.touchKind = k) ↔ (wi ≠ 0 ∨ k = .none)) ∧
  (List.finRange 5 |>.flatMap fun wi => [TouchKind.none, .pressed, .released].map fun k => (wi, k)).countP
    (fun c => c.1 ≠ 0 ∨ c.2 = .none) = 13

/-- R10, R15, R23: the 37-bit image of a state loses nothing; a pattern is no state exactly when `wi` is 5, 6 or 7 or
`kind` is 0b11. -/
def Obligations.RegisterImagesRoundTrip : Prop :=
  (∀ d : Decoder, d.image.decoder? = some d) ∧
  (∀ (r : RegisterImage) (d : Decoder), r.decoder? = some d → d.image = r) ∧
  (∀ r : RegisterImage, r.decoder? = none ↔ 5 ≤ r.wi.toNat ∨ r.kind = 0b11)

/-- R83, the window law. -/
def Obligations.WindowLaw : Prop :=
  ∀ (s : State) (b0 b1 b2 b3 b4 : Byte) (rest : List Offer),
    s.dec.writeIndex = 0 → s.dec.touchKind = .none →
    s.source = .byte b0 :: .byte b1 :: .byte b2 :: .byte b3 :: .byte b4 :: rest →
    ∃ t, Sys2Proof.core.run 5 s = .next t ∧ t.source = rest ∧
      t.dec.writeIndex = 0 ∧ t.dec.touchKind = .none ∧
      t.sink = s.sink ++ [⟨none, !markerValue b0⟩, ⟨none, false⟩, ⟨none, false⟩, ⟨none, false⟩,
        ⟨if markerValue b0 then some ⟨b1 ++ b2, b3 ++ b4, b0 == 0xC8⟩ else none, false⟩]

/-- R84, the closed form: from position 0 with no touch latched, which is what RESET leaves, whatever the data registers
hold and whatever comes after, every output, the counter and the latch are functions of the bytes fed alone; and the
number of events. -/
def Obligations.ClosedFormOfEveryStream : Prop :=
  ∀ (s : State) (bytes : List Byte) (rest : List Offer),
    s.dec.writeIndex = 0 → s.dec.touchKind = .none → s.source = bytes.map Offer.byte ++ rest →
    ∃ t, Sys2Proof.core.run bytes.length s = .next t ∧ t.source = rest ∧
      t.sink = s.sink ++ (List.range bytes.length).map (closedFormOut bytes) ∧
      t.dec.writeIndex.val = bytes.length % 5 ∧
      t.dec.touchKind = closedFormKind bytes ∧
      (eventsOf (t.sink.drop s.sink.length)).length
        = (List.range (bytes.length / 5)).countP fun j => markerValue (byteAt bytes (5 * j))

/-- R86: from any state, two events of a byte stream are a multiple of five steps apart. -/
def Obligations.EventsAreMultiplesOfFiveApart : Prop :=
  ∀ (s : State) (bytes : List Byte) (rest : List Offer), s.source = bytes.map Offer.byte ++ rest →
    ∃ t outs, Sys2Proof.core.run bytes.length s = .next t ∧ t.sink = s.sink ++ outs ∧ outs.length = bytes.length ∧
      ∀ (m n : Nat) (e f : TouchEvent), m < n →
        (outs[m]?.bind StepOut.evt) = some e → (outs[n]?.bind StepOut.evt) = some f → (n - m) % 5 = 0

/-- R87, R32 item 4: behind `d` stray bytes (1 to 4) the marker positions fall on byte `5 - d` of the frames, for ever:
after the first window an event is emitted exactly where that byte is a marker value, and in the first window exactly
if the first stray byte is one. -/
def Obligations.StreamOffsetPersists : Prop :=
  ∀ (s : State) (stray : List Byte) (frames : List (Bool × Coord × Coord)),
    s.dec.writeIndex = 0 → s.dec.touchKind = .none → 1 ≤ stray.length → stray.length ≤ 4 →
    (let frameOf := fun f : Bool × Coord × Coord => (frameBytes (if f.1 then 0xC8 else 0x88) f.2.1 f.2.2).toList
     let bytes := stray ++ frames.flatMap frameOf
     s.source = bytes.map Offer.byte →
     ∃ t outs, Sys2Proof.core.run bytes.length s = .next t ∧ t.sink = s.sink ++ outs ∧ outs.length = bytes.length ∧
      ∀ n < bytes.length, ((outs[n]?.bind StepOut.evt).isSome = true ↔ n % 5 = 4 ∧
        markerValue (if n = 4 then byteAt stray 0
          else byteAt (frameOf (frames.getD ((n - 9) / 5) (false, 0, 0))) (5 - stray.length)) = true))

/-- R21: no output depends on the data registers a reset leaves: two machines at position 0 with no touch latched and the
same offers give the same outputs and the same control states for ever, whatever their registers hold and whatever
free values their resets draw (log entry 2). The offers may be whole frames too (log entry 5). -/
def Obligations.OutputsIgnoreTheResetPayload : Prop :=
  ∀ (n : Nat) (s t : State), s.source = t.source → s.sink = t.sink → s.dec.SameControl t.dec →
    s.dec.writeIndex = 0 → s.dec.touchKind = .none →
    ∃ s' t', Sys2Proof.core.run n s = .next s' ∧ Sys2Proof.core.run n t = .next t' ∧
      s'.sink = t'.sink ∧ s'.dec.SameControl t'.dec

/-- R69: HOLD steps can be left out of any run without changing the decoder's end state or the sequence of events and
`diag` pulses. The offers may be whole frames too (log entry 5). -/
def Obligations.HoldStepsAreInvisible : Prop :=
  ∀ (s : State) (offers : List Offer),
    (let kept := offers.filter fun o => !o.isIdle
     ∃ t u outs outs', Sys2Proof.core.run offers.length { s with source := offers } = .next t ∧
      Sys2Proof.core.run kept.length { s with source := kept } = .next u ∧
      t.dec = u.dec ∧ t.draws = u.draws ∧ t.sink = s.sink ++ outs ∧ u.sink = s.sink ++ outs' ∧
      outs.filter (fun o => decide (o ≠ ⟨none, false⟩)) = outs'.filter (fun o => decide (o ≠ ⟨none, false⟩)))

/-- R96, R82: any number of discarded windows returns the decoder to exactly the state it was in, with no event and one
`diag` pulse a window. -/
def Obligations.DiscardedWindowsLeaveNoTrace : Prop :=
  ∀ (s : State) (windows : List (Byte × Byte × Byte × Byte × Byte)) (rest : List Offer),
    s.dec.writeIndex = 0 → s.dec.touchKind = .none → (∀ w ∈ windows, w.1 ≠ 0xC8 ∧ w.1 ≠ 0x88) →
    s.source = (windows.flatMap fun w => [w.1, w.2.1, w.2.2.1, w.2.2.2.1, w.2.2.2.2].map Offer.byte) ++ rest →
    ∃ outs, Sys2Proof.core.run (5 * windows.length) s
        = .next { s with source := rest, sink := s.sink ++ outs } ∧
      eventsOf outs = [] ∧ outs.countP StepOut.diag = windows.length

/-- R75, R63: this hardware keeps the latch on a bad marker; with the flag false the latch would be cleared; one step
differs only at the unreachable starts of R74's second table. -/
def Obligations.RetentionFlagMattersOnlyAtUnreachableStarts : Prop :=
  (∀ (d : Decoder) (b : Byte), d.feed b = d.feedWith true b) ∧
  (∀ (d : Decoder) (b : Byte), d.writeIndex = 0 → b ≠ 0xC8 → b ≠ 0x88 →
    d.feedWith false b = ({ d with writeIndex := 1, touchKind := .none }, ⟨none, true⟩)) ∧
  (∀ (d : Decoder) (b : Byte), d.feedWith true b ≠ d.feedWith false b ↔
    d.writeIndex = 0 ∧ d.touchKind ≠ .none ∧ b ≠ 0xC8 ∧ b ≠ 0x88)

/-- R75, R20: on every stream from a state that meets the marker invariant the two settings of the flag give the same
state and the same outputs. -/
def Obligations.RetentionFlagIsInvisibleFromReset : Prop :=
  ∀ (d : Decoder) (bytes : List Byte), d.MarkerInvariant → d.feedAllWith true bytes = d.feedAllWith false bytes

/-! ## Frames, programs, instances, ports -/

/-- R80 to R82, R32: from any state, aligned or not, a frame-level operation is the five byte steps of its bytes. That it
can run in one step is the model's choice (log entry 5); of an ill-formed JUNK it is the model's reading (log entry
13). -/
def Obligations.FrameOperationIsFiveByteSteps : Prop :=
  ∀ (i : Instr) (s : State) (rest : List Offer), i.byteCount = 5 → s.source = i.bytes.map Offer.byte ++ rest →
    Sys2Proof.core.run 5 s = exec i { s with source := rest }

/-- R52: a program of the stream notation does, assembled and fed step by step, what its lines do in order. A `JUNK` line
whose first byte is a marker is no line of R52; that it assembles and runs like any other is the model's choice (log
entries 22 and 13). -/
def Obligations.AssembledProgramRunsItsDirectives : Prop :=
  ∀ (program : List Directive) (s : State) (rest : List Offer), s.source = assemble program ++ rest →
    Sys2Proof.core.run (assemble program).length s = runProgram program { s with source := rest }

/-- R100, R37 item 4: a step of one instance is its own step, leaves every other instance as it was, and steps of two
instances commute. It holds for instances with equal and with different `draws` (log entry 23). -/
def Obligations.InstancesShareNothing : Prop :=
  (∀ (ms : List State) (k : Nat) (m : State), ms[k]? = some m →
    ∃ m' ms', step m = .next m' ∧ stepInstance ms k = .next ms' ∧ ms'[k]? = some m' ∧
      ∀ j, j ≠ k → ms'[j]? = ms[j]?) ∧
  (∀ (ms : List State) (j k : Nat), j ≠ k →
    ∃ a b c, stepInstance ms j = .next a ∧ stepInstance a k = .next c ∧
      stepInstance ms k = .next b ∧ stepInstance b j = .next c)

/-- R35, R121, D4: levels that show an output show its event whole, or show that there is none, and then the field ports
may hold any value. -/
def Obligations.PortsShowEventsWhole : Prop :=
  (∀ (p : OutPorts) (e : TouchEvent) (diag : Bool), p.shows ⟨some e, diag⟩ = true ↔
    p.evtValid = true ∧ p.evtX = e.x ∧ p.evtY = e.y ∧ p.evtPressed = e.pressed ∧ p.diagBadMarker = diag) ∧
  (∀ (p : OutPorts) (diag : Bool), p.shows ⟨none, diag⟩ = true ↔ p.evtValid = false ∧ p.diagBadMarker = diag)
end

