-- ==== Sys2Proof/Laws/State.lean ====
section
/-!
SUPPORT. One lemma per field per update of State, so that no proof unfolds a record update; the register file's
read-after-write laws; and what a step hands to the environment.
-/

namespace Sys2Proof.Machine

section Commit
variable (s : State) (r : Decoder × StepOut)

@[simp] theorem State.commit_dec : (s.commit r).dec = r.1 := rfl
@[simp] theorem State.commit_sink : (s.commit r).sink = s.sink ++ [r.2] := rfl
@[simp] theorem State.commit_source : (s.commit r).source = s.source := rfl
@[simp] theorem State.commit_draws : (s.commit r).draws = s.draws := rfl

end Commit

section FeedByte
variable (s : State) (b : Byte)

@[simp] theorem State.feedByte_dec : (s.feedByte b).dec = (s.dec.feed b).1 := rfl
@[simp] theorem State.feedByte_sink : (s.feedByte b).sink = s.sink ++ [(s.dec.feed b).2] := rfl
@[simp] theorem State.feedByte_source : (s.feedByte b).source = s.source := rfl
@[simp] theorem State.feedByte_draws : (s.feedByte b).draws = s.draws := rfl

end FeedByte

section FeedBytes
variable (s : State)

@[simp] theorem State.feedBytes_nil : s.feedBytes [] = s := rfl

@[simp] theorem State.feedBytes_cons (b : Byte) (bs : List Byte) :
    s.feedBytes (b :: bs) = (s.feedByte b).feedBytes bs := rfl

theorem State.feedBytes_append (as bs : List Byte) :
    s.feedBytes (as ++ bs) = (s.feedBytes as).feedBytes bs := by
  induction as generalizing s with
  | nil => rfl
  | cons a as ih => exact ih _

@[simp] theorem State.feedBytes_source (bs : List Byte) : (s.feedBytes bs).source = s.source := by
  induction bs generalizing s with
  | nil => rfl
  | cons b bs ih => exact ih _

@[simp] theorem State.feedBytes_draws (bs : List Byte) : (s.feedBytes bs).draws = s.draws := by
  induction bs generalizing s with
  | nil => rfl
  | cons b bs ih => exact ih _

/-- Feeding neither reads nor changes what the source still holds. -/
theorem State.feedBytes_with_source (bs : List Byte) (src : List Offer) :
    ({ s with source := src } : State).feedBytes bs = { s.feedBytes bs with source := src } := by
  induction bs generalizing s with
  | nil => rfl
  | cons b bs ih => exact ih (s.feedByte b)

end FeedBytes

section Registers
variable (p : Payload)

theorem Payload.get_set_same (i : Fin Params.payloadLen) (b : Byte) : (p.set i b).get i = b :=
  Vector.getElem_set_self ..

theorem Payload.get_set_of_ne {i j : Fin Params.payloadLen} (h : i ≠ j) (b : Byte) : (p.set i b).get j = p.get j :=
  Vector.getElem_set_ne _ _ fun e => h (Fin.ext e)

@[simp] theorem Payload.get_set (i j : Fin Params.payloadLen) (b : Byte) :
    (p.set i b).get j = if i = j then b else p.get j := by
  split
  · subst j; exact p.get_set_same i b
  · exact p.get_set_of_ne ‹_› b

/-- Two register files are equal when their registers are. -/
theorem Payload.ext {p q : Payload} (h : ∀ i, p.get i = q.get i) : p = q :=
  Vector.ext fun i hi => h ⟨i, hi⟩

/-- The four registers of R11 are all there are. -/
theorem Payload.eq_registers : p = #v[p.xh, p.xl, p.yh, p.yl] :=
  Payload.ext fun i => by fin_cases i <;> rfl

section Literal
variable (a b c d : Byte)

@[simp] theorem Payload.get_zero : Payload.get #v[a, b, c, d] 0 = a := rfl
@[simp] theorem Payload.get_one : Payload.get #v[a, b, c, d] 1 = b := rfl
@[simp] theorem Payload.get_two : Payload.get #v[a, b, c, d] 2 = c := rfl
@[simp] theorem Payload.get_three : Payload.get #v[a, b, c, d] 3 = d := rfl

end Literal

/-- The four stores of a window leave nothing of what was there. -/
@[simp] theorem Payload.set_all (a b c d : Byte) : (((p.set 0 a).set 1 b).set 2 c).set 3 d = #v[a, b, c, d] :=
  Payload.ext fun i => by fin_cases i <;> simp <;> rfl

/-- RESET leaves the draw's free bytes. -/
@[simp] theorem drawnPayload_get (draw : Nat) (i : Fin Params.payloadLen) :
    (drawnPayload draw).get i = Config.payloadReset draw i :=
  Vector.getElem_ofFn i.isLt

end Registers

end Sys2Proof.Machine
end

