-- ==== Sys2Proof/Laws/Words.lean ====
section
/-!
SUPPORT. The markers and the lengths as literals, what selects the default rows, frames as their bytes, and the two
bytes of a coordinate: splitting, concatenating and the shift-and-or of spec/30_encoding.md R47 agree.
-/

namespace Sys2Proof

/-- The one place a proof learns how long a frame is: the literal form of its length. -/
@[simp] theorem Params.frameLen_eq : Params.frameLen = 5 := rfl

@[simp] theorem Params.payloadLen_eq : Params.payloadLen = 4 := rfl

/-- `WI_W` bits hold every value of the counter (R15, D8). -/
theorem Params.frameLen_le_two_pow_wiW : Params.frameLen ≤ 2 ^ Params.wiW := by decide

theorem WriteIndex.val_lt_five (wi : WriteIndex) : wi.val < 5 := wi.isLt

theorem Params.isMarker_iff {b : Byte} : Params.isMarker b = true ↔ b = 0xC8 ∨ b = 0x88 := by
  simp only [Params.isMarker, Bool.or_eq_true, beq_iff_eq]
  rfl

theorem Params.isMarker_eq_false_iff {b : Byte} : Params.isMarker b = false ↔ b ≠ 0xC8 ∧ b ≠ 0x88 := by
  rw [← Bool.not_eq_true, Params.isMarker_iff, not_or]

theorem decodeByte_zero_of_other {b : Byte} (h : b ≠ 0xC8) (h' : b ≠ 0x88) : decodeByte 0 b = .markBad b := by
  show (if b = 0xC8 then Instr.markP else if b = 0x88 then .markR else .markBad b) = _
  rw [if_neg h, if_neg h']

theorem decodeFrame_of_other {m : Byte} (h : m ≠ 0xC8) (h' : m ≠ 0x88) (b1 b2 b3 b4 : Byte) :
    decodeFrame (junkBytes m b1 b2 b3 b4) = .junk m b1 b2 b3 b4 := by
  show (if m = 0xC8 then Instr.press _ _ else if m = 0x88 then .release _ _ else .junk m b1 b2 b3 b4) = _
  rw [if_neg h, if_neg h']

@[simp] theorem frameBytes_toList (m : Byte) (x y : Coord) :
    (frameBytes m x y).toList = [m, highByte x, lowByte x, highByte y, lowByte y] := rfl

@[simp] theorem junkBytes_toList (m b1 b2 b3 b4 : Byte) :
    (junkBytes m b1 b2 b3 b4).toList = [m, b1, b2, b3, b4] := rfl

/-- A frame is its five bytes (R45). -/
theorem Frame.eq_bytes (f : Frame) : f = #v[f.get 0, f.get 1, f.get 2, f.get 3, f.get 4] :=
  Vector.ext fun i hi => by
    obtain rfl | rfl | rfl | rfl | rfl : i = 0 ∨ i = 1 ∨ i = 2 ∨ i = 3 ∨ i = 4 := by
      have : i < 5 := hi
      omega
    all_goals rfl

/-- What five given bytes decode to (R45, R53). -/
theorem decodeFrame_bytes5 (b0 b1 b2 b3 b4 : Byte) :
    decodeFrame #v[b0, b1, b2, b3, b4] =
      if b0 = 0xC8 then .press (b1 ++ b2) (b3 ++ b4)
      else if b0 = 0x88 then .release (b1 ++ b2) (b3 ++ b4)
      else .junk b0 b1 b2 b3 b4 := rfl

/-- `FRAME_LEN` bytes are a frame (R50). -/
theorem Frame.ofList?_toList (f : Frame) : Frame.ofList? f.toList = some f := by
  rw [Frame.ofList?, dif_pos (Vector.length_toList)]
  rfl

/-- Any other number of bytes is no frame (R50). -/
theorem Frame.ofList?_of_length_ne {bytes : List Byte} (h : bytes.length ≠ Params.frameLen) :
    Frame.ofList? bytes = none :=
  dif_neg h

/-- A frame decodes to a frame-level operation (R45, R53). -/
theorem decodeFrame_byteCount (f : Frame) : (decodeFrame f).byteCount = 5 := by
  unfold decodeFrame
  split
  · rfl
  · split <;> rfl

section Streams
variable (b0 b1 b2 b3 b4 : Byte) (rest : List Byte)

/-- The first frame of a list that holds one. -/
theorem decodeFrameBytes_frame :
    decodeFrameBytes (b0 :: b1 :: b2 :: b3 :: b4 :: rest) = .ok (decodeFrame #v[b0, b1, b2, b3, b4], rest) := rfl

/-- Disassembling cuts one frame off and goes on. -/
theorem disassemble_frame :
    disassemble (b0 :: b1 :: b2 :: b3 :: b4 :: rest) =
      (decodeFrame #v[b0, b1, b2, b3, b4] :: (disassemble rest).1, (disassemble rest).2) := rfl

end Streams

theorem append_high_low (c : Coord) : highByte c ++ lowByte c = c := by
  apply BitVec.eq_of_getLsbD_eq
  intro i hi
  simp only [highByte, lowByte, BitVec.getLsbD_append, BitVec.getLsbD_extractLsb']
  rcases Nat.lt_or_ge i 8 with h | h
  · simp [h]
  · simp [Nat.not_lt.mpr h, show i - 8 < 8 by omega, show 8 + (i - 8) = i by omega]

theorem highByte_append (h l : Byte) : highByte (h ++ l) = h := by
  apply BitVec.eq_of_getLsbD_eq
  intro i hi
  simp only [highByte, BitVec.getLsbD_extractLsb', BitVec.getLsbD_append, hi, decide_true, Bool.true_and,
    Nat.not_lt.mpr (Nat.le_add_right 8 i), if_false, Nat.add_sub_cancel_left]

theorem lowByte_append (h l : Byte) : lowByte (h ++ l) = l := by
  apply BitVec.eq_of_getLsbD_eq
  intro i hi
  simp only [lowByte, BitVec.getLsbD_extractLsb', BitVec.getLsbD_append, hi, decide_true, Bool.true_and,
    Nat.zero_add, if_true]

/-- The bytes of a valid frame whose coordinates are given by their bytes (R45). -/
theorem frameBytes_append (m b1 b2 b3 b4 : Byte) :
    frameBytes m (b1 ++ b2) (b3 ++ b4) = #v[m, b1, b2, b3, b4] := by
  simp only [frameBytes, highByte_append, lowByte_append]

/-- The bytes of the operation a marker's frame decodes to are the frame's (R45). -/
theorem frameBytes_of_frame (f : Frame) :
    frameBytes (f.get 0) (f.get 1 ++ f.get 2) (f.get 3 ++ f.get 4) = f :=
  (frameBytes_append ..).trans f.eq_bytes.symm

/-- A frame's operation has the frame's bytes (R45, R52). -/
theorem decodeFrame_bytes (f : Frame) : (decodeFrame f).bytes = f.toList := by
  unfold decodeFrame
  split
  case isTrue h => exact congrArg Vector.toList (h ▸ frameBytes_of_frame f)
  case isFalse =>
    split
    case isTrue h => exact congrArg Vector.toList (h ▸ frameBytes_of_frame f)
    case isFalse => exact congrArg Vector.toList f.eq_bytes.symm

theorem Machine.assembleCoord_eq_append (h l : Byte) : Machine.assembleCoord h l = h ++ l := by
  apply BitVec.eq_of_getLsbD_eq
  intro i hi
  simp only [Machine.assembleCoord, BitVec.zeroExtend_eq_setWidth, BitVec.getLsbD_or, BitVec.getLsbD_shiftLeft,
    BitVec.getLsbD_setWidth, BitVec.getLsbD_append]
  rcases Nat.lt_or_ge i 8 with hlt | hge
  · simp [hlt, hi]
  · simp [hi, Nat.not_lt.mpr hge, show i - 8 < 16 by omega, BitVec.getLsbD_of_ge l i hge]

theorem Machine.assembleCoord_high_low (c : Coord) : Machine.assembleCoord (highByte c) (lowByte c) = c := by
  rw [Machine.assembleCoord_eq_append, append_high_low]

theorem Machine.assembleCoord_toNat (h l : Byte) :
    (Machine.assembleCoord h l).toNat = 256 * h.toNat + l.toNat := by
  rw [Machine.assembleCoord_eq_append, BitVec.toNat_append, Nat.shiftLeft_eq, Nat.mul_comm,
    ← Nat.two_pow_add_eq_or_of_lt l.isLt]

end Sys2Proof
end

