-- ==== Sys2Proof/Laws/Feed.lean ====
section
/-!
SUPPORT. What `feed` does at each position, and that the effect of each byte operation is `feed` at its own position
(spec/40_byte_operations.md R60, R61 to R67).
-/

namespace Sys2Proof.Machine

@[simp] theorem TouchKind.accepting_none : TouchKind.accepting .none = false := rfl
@[simp] theorem TouchKind.accepting_pressed : TouchKind.accepting .pressed = true := rfl
@[simp] theorem TouchKind.accepting_released : TouchKind.accepting .released = true := rfl

theorem TouchKind.accepting_eq_false {k : TouchKind} : k.accepting = false ↔ k = .none := by
  cases k <;> simp

theorem TouchKind.accepting_iff {k : TouchKind} : k.accepting = true ↔ k = .pressed ∨ k = .released := by
  cases k <;> simp

@[simp] theorem lastIndex_eq : lastIndex = 4 := rfl

theorem nextIndex_val (wi : WriteIndex) : (nextIndex wi).val = (wi.val + 1) % 5 := by
  revert wi; decide

@[simp] theorem nextIndex_eq_zero {wi : WriteIndex} : nextIndex wi = 0 ↔ wi = 4 := by
  revert wi; decide

/-- The counter of a byte step (R12, R70), whatever the byte, the latch and the flag. -/
@[simp] theorem Decoder.feedWith_writeIndex (r : Bool) (d : Decoder) (b : Byte) :
    (d.feedWith r b).1.writeIndex = nextIndex d.writeIndex := rfl

@[simp] theorem Decoder.feed_writeIndex (d : Decoder) (b : Byte) :
    (d.feed b).1.writeIndex = nextIndex d.writeIndex := rfl

@[simp] theorem Decoder.feed_diag (d : Decoder) (b : Byte) : (d.feed b).2.diag = diagOf d.writeIndex b := rfl

@[simp] theorem payloadIndex_one : payloadIndex 1 = 0 := rfl
@[simp] theorem payloadIndex_two : payloadIndex 2 = 1 := rfl
@[simp] theorem payloadIndex_three : payloadIndex 3 = 2 := rfl
@[simp] theorem payloadIndex_four : payloadIndex 4 = 3 := rfl

section Effects
variable {d : Decoder}

theorem Decoder.markP_eq_feed (h : d.writeIndex = 0) : d.markP = d.feed Params.markPress := by
  obtain ⟨p, wi, k⟩ := d
  subst h
  rfl

theorem Decoder.markR_eq_feed (h : d.writeIndex = 0) : d.markR = d.feed Params.markRelease := by
  obtain ⟨p, wi, k⟩ := d
  subst h
  rfl

theorem Decoder.markBad_eq_feedWith (retain : Bool) {b : Byte} (h : d.writeIndex = 0)
    (hb : Params.isMarker b = false) : d.markBad retain = d.feedWith retain b := by
  obtain ⟨p, wi, k⟩ := d
  subst h
  have hb' := hb
  simp only [Params.isMarker, Bool.or_eq_false_iff, beq_eq_false_iff_ne] at hb'
  cases retain <;>
    simp [markBad, feedWith, classify, diagOf, nextIndex, hb, hb'.1, hb'.2]

theorem Decoder.payXh_eq_feed (h : d.writeIndex = 1) (b : Byte) : d.payXh b = d.feed b := by
  obtain ⟨p, wi, k⟩ := d
  subst h
  cases k <;> rfl

theorem Decoder.payXl_eq_feed (h : d.writeIndex = 2) (b : Byte) : d.payXl b = d.feed b := by
  obtain ⟨p, wi, k⟩ := d
  subst h
  cases k <;> rfl

theorem Decoder.payYh_eq_feed (h : d.writeIndex = 3) (b : Byte) : d.payYh b = d.feed b := by
  obtain ⟨p, wi, k⟩ := d
  subst h
  cases k <;> rfl

theorem Decoder.payYl_eq_feed (h : d.writeIndex = 4) (b : Byte) : d.payYl b = d.feed b := by
  obtain ⟨p, wi, k⟩ := d
  subst h
  cases k
  case none => rfl
  all_goals simp [payYl, feed, feedWith, store, completed, assembleEvent, payloadIndex_four, diagOf, nextIndex]

end Effects

/-! Each byte operation's meaning is its byte fed, wherever the decoder stands. -/

theorem execMarkP_eq (s : State) : execMarkP s = .next (s.feedByte Params.markPress) := by
  unfold execMarkP State.feedByte
  split
  · rw [Decoder.markP_eq_feed ‹_›]
  · rfl

theorem execMarkR_eq (s : State) : execMarkR s = .next (s.feedByte Params.markRelease) := by
  unfold execMarkR State.feedByte
  split
  · rw [Decoder.markR_eq_feed ‹_›]
  · rfl

theorem execMarkBad_eq (b : Byte) (s : State) : execMarkBad b s = .next (s.feedByte b) := by
  unfold execMarkBad State.feedByte
  split
  · rename_i h
    rw [Decoder.markBad_eq_feedWith _ h.1 h.2]
    rfl
  · rfl

theorem execPayXh_eq (b : Byte) (s : State) : execPayXh b s = .next (s.feedByte b) := by
  unfold execPayXh State.feedByte
  split
  · rw [Decoder.payXh_eq_feed ‹_›]
  · rfl

theorem execPayXl_eq (b : Byte) (s : State) : execPayXl b s = .next (s.feedByte b) := by
  unfold execPayXl State.feedByte
  split
  · rw [Decoder.payXl_eq_feed ‹_›]
  · rfl

theorem execPayYh_eq (b : Byte) (s : State) : execPayYh b s = .next (s.feedByte b) := by
  unfold execPayYh State.feedByte
  split
  · rw [Decoder.payYh_eq_feed ‹_›]
  · rfl

theorem execPayYl_eq (b : Byte) (s : State) : execPayYl b s = .next (s.feedByte b) := by
  unfold execPayYl State.feedByte
  split
  · rw [Decoder.payYl_eq_feed ‹_›]
  · rfl

end Sys2Proof.Machine
end

