-- ==== Sys2Proof/Laws/Run.lean ====
section
/-!
SUPPORT. What a step and a run do, said once: each operation is a byte fed, bytes fed, a hold or a reset; a run over
offered bytes is those bytes fed; runs compose.
-/

namespace Sys2Proof.Machine

/-- The three formats (R53): a frame of five bytes, one byte, or one of the two control operations. -/
theorem Instr.frame_or_byte_or_control (i : Instr) :
    i.byteCount = 5 ∨ (∃ b, i.byte? = some b) ∨ i = .hold ∨ i = .reset := by
  cases i <;> simp [Instr.byte?, Instr.byteCount, Instr.bytes, Params.frameLen, Params.payloadLen]

section Exec
variable (s : State)

/-- Whatever byte is offered, at whatever position, the operation it selects feeds it. -/
theorem exec_decodeByte (wi0 : WriteIndex) (b : Byte) : exec (decodeByte wi0 b) s = .next (s.feedByte b) := by
  fin_cases wi0
  · show exec (if b = Params.markPress then .markP else if b = Params.markRelease then .markR else .markBad b) s = _
    split
    · subst b
      exact execMarkP_eq s
    · split
      · subst b
        exact execMarkR_eq s
      · exact execMarkBad_eq b s
  · exact execPayXh_eq b s
  · exact execPayXl_eq b s
  · exact execPayYh_eq b s
  · exact execPayYl_eq b s

/-- A byte operation feeds its byte. -/
theorem exec_of_byte {i : Instr} {b : Byte} (h : i.byte? = some b) : exec i s = .next (s.feedByte b) := by
  cases i <;> simp [Instr.byte?, Instr.byteCount, Instr.bytes, Params.frameLen, Params.payloadLen] at h
  · subst h; exact execMarkP_eq s
  · subst h; exact execMarkR_eq s
  · subst h; exact execMarkBad_eq _ s
  · subst h; exact execPayXh_eq _ s
  · subst h; exact execPayXl_eq _ s
  · subst h; exact execPayYh_eq _ s
  · subst h; exact execPayYl_eq _ s

/-- A frame-level operation feeds its bytes. -/
theorem exec_of_frame {i : Instr} (h : i.byteCount = 5) : exec i s = .next (s.feedBytes i.bytes) := by
  cases i <;> first | rfl | cases h

/-- Every offered frame is fed byte by byte. -/
theorem exec_decodeFrame (f : Frame) : exec (decodeFrame f) s = .next (s.feedBytes f.toList) := by
  rw [exec_of_frame s (decodeFrame_byteCount f), decodeFrame_bytes]

theorem exec_hold : exec .hold s = .next (s.commit (s.dec, .silent)) := rfl

theorem exec_reset :
    exec .reset s = .next { s.commit (⟨drawnPayload s.draws, 0, .none⟩, .silent) with draws := s.draws + 1 } := rfl

end Exec

section Fetch
variable {s : State} {rest : List Offer}

theorem State.fetch_nil (h : s.source = []) : s.fetch = (.hold, s) := by
  simp [State.fetch, h]

theorem State.fetch_cons {o : Offer} (h : s.source = o :: rest) :
    s.fetch = (decode s.dec.writeIndex o, { s with source := rest }) := by
  simp [State.fetch, h]

/-- A byte step. -/
theorem step_of_byte {b : Byte} (h : s.source = .byte b :: rest) :
    step s = .next (({ s with source := rest } : State).feedByte b) := by
  rw [step, State.fetch_cons h]
  exact exec_decodeByte _ _ b

/-- A step in which a frame is offered. -/
theorem step_of_frame {f : Frame} (h : s.source = .frame f :: rest) :
    step s = .next (({ s with source := rest } : State).feedBytes f.toList) := by
  rw [step, State.fetch_cons h]
  exact exec_decodeFrame _ f

end Fetch

section Run

@[simp] theorem run_zero (s : State) : Sys2Proof.core.run 0 s = .next s := rfl

theorem run_succ_of_step {n : Nat} {s t : State} (h : step s = .next t) :
    Sys2Proof.core.run (n + 1) s = Sys2Proof.core.run n t := by
  have h' : Sys2Proof.core.step s = .next t := h
  simp only [Host.Core.run, h']

/-- Runs compose. -/
theorem run_add {m n : Nat} {s t : State} (h : Sys2Proof.core.run m s = .next t) :
    Sys2Proof.core.run (m + n) s = Sys2Proof.core.run n t := by
  induction m generalizing s with
  | zero => cases h; rw [Nat.zero_add]
  | succ m ih =>
    cases hs : step s with
    | next s' =>
      rw [run_succ_of_step hs] at h
      rw [Nat.succ_add, run_succ_of_step hs]
      exact ih h
    | fault r => cases r
    | refused r =>
      have hs' : Sys2Proof.core.step s = .refused r := hs
      simp only [Host.Core.run, hs'] at h
      cases h

/-- A run over offered bytes is those bytes fed. -/
theorem run_of_bytes {s : State} {rest : List Offer} (bytes : List Byte)
    (h : s.source = bytes.map Offer.byte ++ rest) :
    Sys2Proof.core.run bytes.length s = .next (({ s with source := rest } : State).feedBytes bytes) := by
  induction bytes generalizing s with
  | nil =>
    obtain ⟨d, src, snk, n⟩ := s
    simp only [List.map_nil, List.nil_append] at h
    subst h
    rfl
  | cons b bs ih =>
    rw [List.length_cons, run_succ_of_step (step_of_byte h), ih rfl]
    rfl

end Run

section Outputs

/-- Bytes fed: the decoder's end state and the outputs, as a function of the decoder alone. -/
theorem State.feedBytes_eq (s : State) (bytes : List Byte) :
    s.feedBytes bytes = { s with
      dec := (s.dec.feedAllWith Params.retainKindOnBadMarker bytes).1
      sink := s.sink ++ (s.dec.feedAllWith Params.retainKindOnBadMarker bytes).2 } := by
  induction bytes generalizing s with
  | nil => simp [Decoder.feedAllWith]
  | cons b bs ih =>
    rw [State.feedBytes_cons, ih]
    simp [Decoder.feedAllWith, State.feedByte, State.commit, Decoder.feed]

@[simp] theorem Decoder.feedAllWith_length (retain : Bool) (d : Decoder) (bytes : List Byte) :
    (d.feedAllWith retain bytes).2.length = bytes.length := by
  induction bytes generalizing d with
  | nil => rfl
  | cons b bs ih => simp [Decoder.feedAllWith, ih]

theorem Decoder.feedAllWith_append (retain : Bool) (d : Decoder) (as bs : List Byte) :
    d.feedAllWith retain (as ++ bs) =
      (((d.feedAllWith retain as).1.feedAllWith retain bs).1,
        (d.feedAllWith retain as).2 ++ ((d.feedAllWith retain as).1.feedAllWith retain bs).2) := by
  induction as generalizing d with
  | nil => simp [Decoder.feedAllWith]
  | cons a as ih => simp [Decoder.feedAllWith, ih]

/-- The counter after bytes fed. -/
theorem Decoder.feedAllWith_writeIndex (retain : Bool) (d : Decoder) (bytes : List Byte) :
    (d.feedAllWith retain bytes).1.writeIndex.val = (d.writeIndex.val + bytes.length) % 5 := by
  induction bytes generalizing d with
  | nil => simp [Decoder.feedAllWith, Nat.mod_eq_of_lt d.writeIndex.isLt]
  | cons b bs ih =>
    simp only [Decoder.feedAllWith, ih, Decoder.feedWith_writeIndex, nextIndex_val, List.length_cons]
    omega

end Outputs

end Sys2Proof.Machine
end

