-- ==== Sys2Proof/Laws/Control.lean ====
section
/-!
SUPPORT. What a step of the ports can be, and what `feed` makes of each part of the decoder, said once for all
positions (spec/40_byte_operations.md R60, spec/10_state.md R11 to R13).
-/

namespace Sys2Proof.Machine

/-- The five positions. -/
theorem position_cases (wi : WriteIndex) : wi = 0 ∨ wi = 1 ∨ wi = 2 ∨ wi = 3 ∨ wi = 4 := by
  revert wi; decide

/-- The three byte classes of R74. -/
theorem classOf_cases (b : Byte) :
    (b = 0xC8 ∧ classOf b = .press) ∨ (b = 0x88 ∧ classOf b = .release) ∨
      (b ≠ 0xC8 ∧ b ≠ 0x88 ∧ classOf b = .other) := by
  by_cases h : b = 0xC8
  · subst h; exact .inl ⟨rfl, rfl⟩
  · by_cases h' : b = 0x88
    · subst h'; exact .inr (.inl ⟨rfl, rfl⟩)
    · exact .inr (.inr ⟨h, h', by rw [classOf, if_neg h, if_neg h']⟩)

/-- A step of the ports is RESET, HOLD or a byte fed. -/
theorem step_of_sample {s : State} {p : Sample} {rest : List Offer} (h : s.source = .sample p :: rest) :
    (p.rst = true ∧ step s = exec .reset { s with source := rest }) ∨
    (p.rst = false ∧ p.inValid = false ∧ step s = exec .hold { s with source := rest }) ∨
    (p.rst = false ∧ p.inValid = true ∧
      step s = .next (({ s with source := rest } : State).feedByte p.inByte)) := by
  obtain ⟨r, v, b⟩ := p
  cases r with
  | true =>
    refine .inl ⟨rfl, ?_⟩
    rw [step, State.fetch_cons h]
    rfl
  | false =>
    cases v with
    | true => exact .inr (.inr ⟨rfl, rfl, step_of_byte h⟩)
    | false =>
      refine .inr (.inl ⟨rfl, rfl, ?_⟩)
      rw [step, State.fetch_cons h]
      rfl

section Feed
variable (d : Decoder) (b : Byte)

/-- The latch after a byte (R13). -/
theorem Decoder.feed_touchKind :
    (d.feed b).1.touchKind =
      if d.writeIndex = 4 then .none
      else if d.writeIndex = 0 then
        (if b = 0xC8 then .pressed else if b = 0x88 then .released else d.touchKind)
      else d.touchKind := by
  obtain ⟨p, wi, k⟩ := d
  obtain rfl | rfl | rfl | rfl | rfl := position_cases wi
  · show (Decoder.classify true ⟨p, 0, k⟩ b).touchKind
      = if b = 0xC8 then .pressed else if b = 0x88 then .released else k
    show (if b = 0xC8 then (⟨p, 0, .pressed⟩ : Decoder) else if b = 0x88 then ⟨p, 0, .released⟩ else ⟨p, 0, k⟩).touchKind
      = _
    split
    · rfl
    · split <;> rfl
  all_goals cases k <;> rfl

/-- The data registers after a byte: one store, at a payload position under a set latch (R11, R33). -/
theorem Decoder.feed_payload :
    (d.feed b).1.payload =
      if d.writeIndex ≠ 0 ∧ d.touchKind ≠ .none then d.payload.set (payloadIndex d.writeIndex) b else d.payload := by
  obtain ⟨p, wi, k⟩ := d
  obtain rfl | rfl | rfl | rfl | rfl := position_cases wi
  · show (Decoder.classify true ⟨p, 0, k⟩ b).payload = p
    unfold Decoder.classify
    split
    · rfl
    · split <;> rfl
  all_goals cases k <;> rfl

/-- A byte emits exactly at the last position under a set latch (R67). -/
theorem Decoder.feed_evt_ne_none : (d.feed b).2.evt ≠ none ↔ d.writeIndex = 4 ∧ d.touchKind ≠ .none := by
  obtain ⟨p, wi, k⟩ := d
  obtain rfl | rfl | rfl | rfl | rfl := position_cases wi
  case inr.inr.inr.inr => cases k <;> simp [Decoder.feed, Decoder.feedWith, Decoder.store, Decoder.completed]
  all_goals simp [Decoder.feed, Decoder.feedWith]

/-- After any byte the marker invariant of R20 holds. -/
theorem Decoder.feed_markerInvariant : (d.feed b).1.MarkerInvariant := by
  intro h
  rw [Decoder.feed_writeIndex, nextIndex_eq_zero] at h
  rw [Decoder.feed_touchKind, if_pos h]

end Feed

/-- Induction over a byte list five at a time, the windows of R9. -/
theorem window_induction {P : List Byte → Prop} (short : ∀ l, l.length < 5 → P l)
    (window : ∀ b0 b1 b2 b3 b4 l, P l → P (b0 :: b1 :: b2 :: b3 :: b4 :: l)) : ∀ l, P l
  | b0 :: b1 :: b2 :: b3 :: b4 :: l => window b0 b1 b2 b3 b4 l (window_induction short window l)
  | [] => short _ (by decide)
  | [_] => short _ (by simp)
  | [_, _] => short _ (by simp)
  | [_, _, _] => short _ (by simp)
  | [_, _, _, _] => short _ (by simp)

end Sys2Proof.Machine
end

