-- ==== Sys2Proof/Laws/PerInstr.lean ====
section
/-!
SUPPORT. Statements about every operation as syntax, one lemma per constructor.
-/

namespace Sys2Proof.Laws

/-- An operation has as many bytes as the operation table gives it (spec/30_encoding.md R50, R53). -/
def EncodedLength.Statement (i : Instr) : Prop := i.bytes.length = i.byteCount

theorem EncodedLength.markP : EncodedLength.Statement .markP := rfl
theorem EncodedLength.markR : EncodedLength.Statement .markR := rfl
theorem EncodedLength.markBad (b : Byte) : EncodedLength.Statement (.markBad b) := rfl
theorem EncodedLength.payXh (b : Byte) : EncodedLength.Statement (.payXh b) := rfl
theorem EncodedLength.payXl (b : Byte) : EncodedLength.Statement (.payXl b) := rfl
theorem EncodedLength.payYh (b : Byte) : EncodedLength.Statement (.payYh b) := rfl
theorem EncodedLength.payYl (b : Byte) : EncodedLength.Statement (.payYl b) := rfl
theorem EncodedLength.hold : EncodedLength.Statement .hold := rfl
theorem EncodedLength.reset : EncodedLength.Statement .reset := rfl
theorem EncodedLength.press (x y : Coord) : EncodedLength.Statement (.press x y) := rfl
theorem EncodedLength.release (x y : Coord) : EncodedLength.Statement (.release x y) := rfl
theorem EncodedLength.junk (m b1 b2 b3 b4 : Byte) : EncodedLength.Statement (.junk m b1 b2 b3 b4) := rfl

end Sys2Proof.Laws
end

