-- ==== Sys2Proof/Tests/Slice0.lean ====
section
/-!
SUPPORT. Tests. Expected results are the worked examples and vectors of spec/95_test_vectors.md (V<n>) and the words
written out from spec/30_encoding.md; `test_witness_…` shows that a statement's hypotheses can be met together.
-/

namespace Sys2Proof.Tests

open Sys2Proof.Machine

/-- The data registers `[11 22 33 44]` of V48 to V61. -/
def regs : Payload := #v[0x11, 0x22, 0x33, 0x44]

/-- A state of the vectors: `(wi, kind, payload)`, with what is offered. -/
def st (wi : Fin 5) (k : TouchKind) (source : List Offer := []) (p : Payload := regs) : State :=
  ⟨⟨p, wi, k⟩, source, [], 0⟩

/-- The decoder and the outputs after an outcome. -/
def seen (o : Host.Outcome State Fault Refusal) : Option (Decoder × List StepOut) :=
  match o with
  | .next t => some (t.dec, t.sink)
  | .fault _ => none
  | .refused _ => none

/-! ## Well-formedness: a term refused by each check, and one accepted. -/

theorem test_wf_markBad_press : (Instr.markBad 0xC8).wellFormed = false := by decide
theorem test_wf_markBad_release : (Instr.markBad 0x88).wellFormed = false := by decide
theorem test_wf_junk_press : (Instr.junk 0xC8 0 0 0 0).wellFormed = false := by decide
theorem test_wf_junk_release : (Instr.junk 0x88 0 0 0 0).wellFormed = false := by decide
theorem test_wf_junk_accepts_markers_inside : (Instr.junk 0 0xC8 0x88 0xC8 0x88).wellFormed = true := by decide

/-! ## Decoding: words written out from R45 and R48, one for every constructor. -/

theorem test_decode_markP : decodeTableWord 8 0b11001000 = some .markP := by decide
theorem test_decode_markR : decodeTableWord 8 0b10001000 = some .markR := by decide
/-- V44, V45, V46, V47: one bit away from a marker, or the bits common to both. -/
theorem test_decode_markBad : [0xC9, 0x48, 0x08, 0x89].map (decodeTableWord 8) =
    [some (.markBad 0xC9), some (.markBad 0x48), some (.markBad 0x08), some (.markBad 0x89)] := by decide
/-- V56: a marker value at a payload position is data. -/
theorem test_decode_payXh : decodeByte 1 0b11001000 = .payXh 0xC8 := by decide
theorem test_decode_payXl : decodeByte 2 0b00110100 = .payXl 0x34 := by decide
theorem test_decode_payYh : decodeByte 3 0b10001000 = .payYh 0x88 := by decide
theorem test_decode_payYl : decodeByte 4 0b01111000 = .payYl 0x78 := by decide
theorem test_decode_hold : decode 0 (.sample ⟨false, false, 0xC8⟩) = .hold := by decide
theorem test_decode_reset : decode 4 (.sample ⟨true, false, 0⟩) = .reset := by decide
/-- V61. -/
theorem test_decode_reset_wins : decode 3 (.sample ⟨true, true, 0xAB⟩) = .reset := by decide
/-- V1, as one 40-bit pattern. -/
theorem test_decode_press :
    decodeTableWord 40 0b1100100000010010001101000101011001111000 = some (.press 0x1234 0x5678) := by decide
/-- V2. -/
theorem test_decode_release :
    decodeTableWord 40 0b1000100000000000000000010000000000000010 = some (.release 1 2) := by decide
/-- V3, the discarded frame. -/
theorem test_decode_junk :
    decodeTableWord 40 0xFF11223344 = some (.junk 0xFF 0x11 0x22 0x33 0x44) := by decide
/-- V14: the high byte is first. -/
theorem test_decode_big_endian :
    decodeFrame #v[0xC8, 0x00, 0xFF, 0xFF, 0x00] = .press 0x00FF 0xFF00 := by decide
/-- V17: a stream that ends inside a frame. -/
theorem test_decode_partial_frame :
    (match decodeFrameBytes [0xC8, 0x12, 0x34, 0x56] with
      | .error e => decide (e = .partialFrame 4)
      | .ok _ => false) = true := by decide
theorem test_decode_no_byte :
    (match decodeBytes 0 [] with
      | .error e => decide (e = .noByte)
      | .ok _ => false) = true := by decide
/-- V20: cut into fives, the four stray bytes make every group a discarded frame. -/
theorem test_disassemble_offset :
    disassemble [0x12, 0x34, 0x56, 0x78, 0xC8, 0x01, 0x02, 0x03, 0x04, 0x88, 0x01] =
      ([.junk 0x12 0x34 0x56 0x78 0xC8, .junk 0x01 0x02 0x03 0x04 0x88], [0x01]) := by decide
/-- R52: `PRESS 0x00C8, 0x0010` after one stray byte (V21 a). -/
theorem test_assemble :
    assemble [.byte 0x34, .press 0x00C8 0x0010, .hold] =
      [.byte 0x34, .byte 0xC8, .byte 0x00, .byte 0xC8, .byte 0x00, .byte 0x10, .idle] := by decide

/-! ## The operations: one step each, from the vectors. -/

/-- V40. -/
theorem test_markP : seen (exec .markP (st 0 .none)) = some (⟨regs, 1, .pressed⟩, [⟨none, false⟩]) := by decide
/-- V41. -/
theorem test_markR : seen (exec .markR (st 0 .none)) = some (⟨regs, 1, .released⟩, [⟨none, false⟩]) := by decide
/-- V43. -/
theorem test_markBad : seen (exec (.markBad 0xFF) (st 0 .none)) = some (⟨regs, 1, .none⟩, [⟨none, true⟩]) := by decide
/-- V34, step 0: the stale latch survives. -/
theorem test_markBad_stale :
    seen (exec (.markBad 0x00) (st 0 .pressed)) = some (⟨regs, 1, .pressed⟩, [⟨none, true⟩]) := by decide
/-- V48. -/
theorem test_payXh : seen (exec (.payXh 0xAB) (st 1 .pressed)) =
    some (⟨#v[0xAB, 0x22, 0x33, 0x44], 2, .pressed⟩, [⟨none, false⟩]) := by decide
/-- V53. -/
theorem test_payXh_discarded :
    seen (exec (.payXh 0xAB) (st 1 .none)) = some (⟨regs, 2, .none⟩, [⟨none, false⟩]) := by decide
/-- V49. -/
theorem test_payXl : seen (exec (.payXl 0xAB) (st 2 .pressed)) =
    some (⟨#v[0x11, 0xAB, 0x33, 0x44], 3, .pressed⟩, [⟨none, false⟩]) := by decide
/-- V50. -/
theorem test_payYh : seen (exec (.payYh 0xAB) (st 3 .released)) =
    some (⟨#v[0x11, 0x22, 0xAB, 0x44], 4, .released⟩, [⟨none, false⟩]) := by decide
/-- V54. -/
theorem test_payYh_discarded :
    seen (exec (.payYh 0xC8) (st 3 .none)) = some (⟨regs, 4, .none⟩, [⟨none, false⟩]) := by decide
/-- V52. -/
theorem test_payYl_release : seen (exec (.payYl 0xAB) (st 4 .released)) =
    some (⟨#v[0x11, 0x22, 0x33, 0xAB], 0, .none⟩, [⟨some ⟨0x1122, 0x33AB, false⟩, false⟩]) := by decide
/-- V55. -/
theorem test_payYl_discarded :
    seen (exec (.payYl 0xAB) (st 4 .none)) = some (⟨regs, 0, .none⟩, [⟨none, false⟩]) := by decide
/-- V58. -/
theorem test_hold : seen (exec .hold (st 2 .pressed)) = some (⟨regs, 2, .pressed⟩, [⟨none, false⟩]) := by decide
/-- V60: the data registers are unspecified, so they are not asked about. -/
theorem test_reset : (seen (exec .reset (st 3 .released))).map
    (fun r => (r.1.writeIndex, r.1.touchKind, r.2)) = some (0, .none, [⟨none, false⟩]) := by decide
/-- V12: above the nominal maximum, not clamped. -/
theorem test_press : seen (exec (.press 0x8001 0x7FFF) (st 0 .none)) =
    some (⟨#v[0x80, 0x01, 0x7F, 0xFF], 0, .none⟩,
      [.silent, .silent, .silent, .silent, ⟨some ⟨0x8001, 0x7FFF, true⟩, false⟩]) := by decide
/-- V15. -/
theorem test_release : seen (exec (.release 0x0100 0x0001) (st 0 .none)) =
    some (⟨#v[0x01, 0x00, 0x00, 0x01], 0, .none⟩,
      [.silent, .silent, .silent, .silent, ⟨some ⟨0x0100, 0x0001, false⟩, false⟩]) := by decide
/-- V16. -/
theorem test_junk : seen (exec (.junk 0x00 0x12 0x34 0x56 0x78) (st 0 .none)) =
    some (⟨regs, 0, .none⟩, [⟨none, true⟩, .silent, .silent, .silent, .silent]) := by decide
/-- V22 read as one misaligned frame: a press frame fed at position 1 of a discarded window opens one on its last
byte. -/
theorem test_press_misaligned : seen (exec (.press 0x0000 0x0000) (st 1 .none)) =
    some (⟨regs, 1, .none⟩, [.silent, .silent, .silent, .silent, ⟨none, true⟩]) := by decide
/-- V57, as a step: the marker's byte offered at position 4 is data. -/
theorem test_step_marker_as_data : seen (step (st 4 .pressed [.byte 0x88])) =
    some (⟨#v[0x11, 0x22, 0x33, 0x88], 0, .none⟩, [⟨some ⟨0x1122, 0x3388, true⟩, false⟩]) := by decide
/-- R35, R121: the ports of V51's output. -/
theorem test_ports : (OutPorts.mk true 0x1122 0x33AB true false).shows ⟨some ⟨0x1122, 0x33AB, true⟩, false⟩ = true := by
  decide
/-- R15, D8, D9: the reset control fields are all zero, and `wi` = 5 is no value. -/
theorem test_image : State.reset.dec.image = ⟨#v[0, 0, 0, 0], 0, 0⟩ ∧
    (RegisterImage.mk #v[0, 0, 0, 0] 5 0).decoder? = none := by decide
/-- R7: the lengths, the widths and the unused parameter. -/
theorem test_params : Params.frameLen = 5 ∧ Params.payloadLen = 4 ∧ Params.wiW = 3 ∧ Params.kindW = 2 ∧
    Params.coordNominalMax = 0x8000 := by decide
/-- The first step after reset, a table word placed: V40. -/
theorem test_first_step : seen (step (State.reset.withFetchWord 8 0xC8)) =
    some (⟨#v[0, 0, 0, 0], 1, .pressed⟩, [⟨none, false⟩]) := by decide

/-! ## Witnesses: the hypotheses of the statements, met together. -/

theorem test_witness_PhaseIsAViewOfWriteIndex :
    (st 0 .none).dec.phase = .idle ∧ (st 1 .none).dec.phase = .awaitingPayload ∧
      (st 4 .none).dec.phase = .awaitingPayload := by decide
theorem test_witness_OperationMapRows :
    (0x00 : Byte) ≠ 0xC8 ∧ (0x00 : Byte) ≠ 0x88 ∧ (0xC9 : Byte) ≠ 0xC8 ∧ (0xC9 : Byte) ≠ 0x88 := by decide
theorem test_witness_EveryByteSelectsExactlyOneOperation :
    (Instr.markBad 0x89).wellFormed = true ∧ (Instr.markBad 0x89).position? = some 0 ∧
      (Instr.markBad 0x89).byte? = some 0x89 := by decide
theorem test_witness_DecodeOfEncodeIsTheInstruction :
    (Instr.markBad 0x89).wellFormed = true ∧ (∀ p, (Instr.markBad 0x89).position? = some p → p = 0) ∧
      (Instr.payYl 0xFF).wellFormed = true ∧ (∀ p, (Instr.payYl 0xFF).position? = some p → p = 4) ∧
      (Instr.junk 0xC9 0 0 0 0).wellFormed = true ∧
      (∀ p, (Instr.junk 0xC9 0 0 0 0).position? = some p → p = 3) := by decide
theorem test_witness_PartialFramesAreRejectedByName :
    ([1, 2, 3, 4] : List Byte).length < 5 ∧ 5 ≤ ([1, 2, 3, 4, 5] : List Byte).length := by decide
theorem test_witness_DisassemblyIsUnique :
    (∀ i ∈ [Instr.press 1 2, .junk 0 1 2 3 4], i.byteCount = 5 ∧ i.wellFormed = true) ∧
      ([0xC8, 1, 2, 3] : List Byte).length < 5 := by decide
theorem test_witness_StepRunsTheDecodedOperation :
    (st 0 .none [.byte 0xC8]).source = .byte 0xC8 :: [] ∧ (st 0 .none).source = [] := by decide
theorem test_witness_ResetWinsOverAByte :
    (st 3 .released [.sample ⟨true, true, 0xAB⟩]).source = .sample ⟨true, true, 0xAB⟩ :: [] := by decide
theorem test_witness_PlacedTableWordIsWhatStepRuns :
    (st 0 .none).dec.writeIndex = 0 ∧ decodeTableWord 0 0 = some .hold ∧ decodeTableWord 8 0x88 = some .markR ∧
      decodeTableWord 39 0x88 = some .markR ∧ decodeTableWord 40 0x8800010002 = some (.release 1 2) := by decide
theorem test_witness_MarkP_MarkR : (st 0 .none).dec.writeIndex = 0 := by decide
theorem test_witness_MarkBad :
    (st 0 .none).dec.writeIndex = 0 ∧ (0x48 : Byte) ≠ 0xC8 ∧ (0x48 : Byte) ≠ 0x88 := by decide
theorem test_witness_PayXh_PayXl_PayYh :
    (st 1 .none).dec.writeIndex = 1 ∧ (st 2 .pressed).dec.writeIndex = 2 ∧
      (st 3 .released).dec.writeIndex = 3 := by decide
theorem test_witness_PayYlCompletesTheWindow :
    (st 4 .pressed).dec.writeIndex = 4 ∧ (st 4 .pressed).dec.touchKind = .pressed ∧
      (st 4 .released).dec.writeIndex = 4 ∧ (st 4 .released).dec.touchKind = .released ∧
      (st 4 .none).dec.writeIndex = 4 ∧ (st 4 .none).dec.touchKind = .none := by decide
theorem test_witness_HoldChangesNothing :
    (st 2 .none [.sample ⟨false, false, 0xC8⟩]).source = .sample ⟨false, false, 0xC8⟩ :: [] := by decide
theorem test_witness_Press_Release : (st 0 .released).dec.writeIndex = 0 := by decide
theorem test_witness_JunkFrameLeavesTheDecoderUnchanged :
    (st 0 .none).dec.writeIndex = 0 ∧ (st 0 .none).dec.touchKind = .none ∧
      (st 0 .released).dec.writeIndex = 0 ∧ (st 0 .released).dec.touchKind = .released ∧
      (0xFF : Byte) ≠ 0xC8 ∧ (0xFF : Byte) ≠ 0x88 := by decide
theorem test_witness_PositionDecidesWhatAByteDoes :
    (Instr.markP).byte? = some 0xC8 ∧ (Instr.payYl 0x88).byte? = some 0x88 ∧
      (Instr.markBad 0xC8).byte? = some 0xC8 ∧ (Instr.press 1 2).byte? = none := by decide
theorem test_witness_ByteStepsFollowTheTransitionTable :
    (st 4 .released [.byte 0xAB]).source = .byte 0xAB :: [] := by decide
/-- One sample for each clause of the statements about the ports: reset, a byte at 0, 3 and 4, nothing. -/
theorem test_witness_samples :
    (st 4 .pressed [.sample ⟨true, true, 0⟩]).source = .sample ⟨true, true, 0⟩ :: [] ∧
      (st 0 .none [.sample ⟨false, true, 0xC9⟩]).source = .sample ⟨false, true, 0xC9⟩ :: [] ∧
      (st 3 .pressed [.sample ⟨false, true, 0⟩]).source = .sample ⟨false, true, 0⟩ :: [] ∧
      (st 4 .pressed [.sample ⟨false, true, 0⟩]).source = .sample ⟨false, true, 0⟩ :: [] ∧
      (st 4 .pressed [.sample ⟨false, false, 0⟩]).source = .sample ⟨false, false, 0⟩ :: [] := by decide
theorem test_witness_CoordinatesAreBigEndianAndUnclamped :
    (st 4 .released [] #v[0xFF, 0xFF, 0xFF, 0]).dec.writeIndex = 4 ∧
      (st 4 .released [] #v[0xFF, 0xFF, 0xFF, 0]).dec.touchKind ≠ .none := by decide
theorem test_witness_OperationsIgnoreTheEnvironmentsRecords :
    (st 2 .pressed [.idle]).dec = (st 2 .pressed []).dec ∧ (st 2 .pressed [.idle]).draws = (st 2 .pressed []).draws := by
  decide
theorem test_witness_StepKeepsTheMarkerInvariant :
    State.reset.dec.MarkerInvariant ∧ (st 4 .pressed).dec.MarkerInvariant := by decide
theorem test_witness_ReachableControlStates :
    seen (Sys2Proof.core.run 1 { State.reset with source := [.byte 0x88] }) =
      some (⟨#v[0, 0, 0, 0], 1, .released⟩, [⟨none, false⟩]) := by decide
theorem test_witness_RegisterImagesRoundTrip :
    (RegisterImage.mk #v[1, 2, 3, 4] 4 2).decoder? = some ⟨#v[1, 2, 3, 4], 4, .released⟩ ∧
      (RegisterImage.mk #v[1, 2, 3, 4] 7 2).decoder? = none ∧ (RegisterImage.mk #v[1, 2, 3, 4] 4 3).decoder? = none := by decide
theorem test_witness_WindowLaw :
    (st 0 .none ([1, 2, 3, 4, 5].map Offer.byte)).dec.writeIndex = 0 ∧
      (st 0 .none ([1, 2, 3, 4, 5].map Offer.byte)).dec.touchKind = .none ∧
      (st 0 .none ([1, 2, 3, 4, 5].map Offer.byte)).source =
        .byte 1 :: .byte 2 :: .byte 3 :: .byte 4 :: .byte 5 :: [] := by decide
theorem test_witness_ClosedFormOfEveryStream :
    (st 0 .none ([0xC8, 1, 2].map Offer.byte)).dec.writeIndex = 0 ∧
      (st 0 .none ([0xC8, 1, 2].map Offer.byte)).dec.touchKind = .none ∧
      (st 0 .none ([0xC8, 1, 2].map Offer.byte)).source = [0xC8, 1].map Offer.byte ++ [.byte 2] := by decide
/-- Ten bytes whose two windows are both valid frames (V6): events at steps 4 and 9. -/
theorem test_witness_EventsAreMultiplesOfFiveApart :
    ((seen (Sys2Proof.core.run 10 (st 0 .none
      ([0xC8, 0x12, 0x34, 0x56, 0x78, 0x88, 0x00, 0x01, 0x00, 0x02].map Offer.byte)))).map
        fun r => (eventsOf r.2, r.2.map fun o => o.evt.isSome)) =
      some ([⟨0x1234, 0x5678, true⟩, ⟨1, 2, false⟩],
        [false, false, false, false, true, false, false, false, false, true]) := by decide
/-- One and four stray bytes (V21, V20), the ends of the range. -/
theorem test_witness_StreamOffsetPersists :
    (st 0 .none).dec.writeIndex = 0 ∧ (st 0 .none).dec.touchKind = .none ∧
      1 ≤ ([0x34] : List Byte).length ∧ ([0x34] : List Byte).length ≤ 4 ∧
      1 ≤ ([0x12, 0x34, 0x56, 0x78] : List Byte).length ∧ ([0x12, 0x34, 0x56, 0x78] : List Byte).length ≤ 4 ∧
      (([0x34] : List Byte) ++ [(true, (0x00C8 : Coord), (0x0010 : Coord))].flatMap
        fun f : Bool × Coord × Coord => (frameBytes (if f.1 then 0xC8 else 0x88) f.2.1 f.2.2).toList) =
        [0x34, 0xC8, 0x00, 0xC8, 0x00, 0x10] := by decide
theorem test_witness_OutputsIgnoreTheResetPayload :
    (st 0 .none).source = (st 0 .none [] #v[1, 2, 3, 4]).source ∧ (st 0 .none).sink = (st 0 .none [] #v[1, 2, 3, 4]).sink ∧
      (st 0 .none).dec.writeIndex = (st 0 .none [] #v[1, 2, 3, 4]).dec.writeIndex ∧
      (st 0 .none).dec.touchKind = (st 0 .none [] #v[1, 2, 3, 4]).dec.touchKind ∧
      (st 0 .none).dec.writeIndex = 0 ∧ (st 0 .none).dec.touchKind = .none := by decide
/-- One discarded window, V3's. -/
def oneWindow : List (Byte × Byte × Byte × Byte × Byte) := [(0xFF, 0x11, 0x22, 0x33, 0x44)]

theorem test_witness_DiscardedWindowsLeaveNoTrace :
    (st 0 .none ([0xFF, 0x11, 0x22, 0x33, 0x44].map Offer.byte)).dec.writeIndex = 0 ∧
      (st 0 .none ([0xFF, 0x11, 0x22, 0x33, 0x44].map Offer.byte)).dec.touchKind = .none ∧
      (∀ w ∈ oneWindow, w.1 ≠ 0xC8 ∧ w.1 ≠ 0x88) ∧
      (st 0 .none ([0xFF, 0x11, 0x22, 0x33, 0x44].map Offer.byte)).source =
        (oneWindow.flatMap fun w => [w.1, w.2.1, w.2.2.1, w.2.2.2.1, w.2.2.2.2].map Offer.byte) ++ [] :=
  ⟨rfl, rfl, by simp [oneWindow], rfl⟩
theorem test_witness_RetentionFlag :
    (st 0 .pressed).dec.writeIndex = 0 ∧ (st 0 .pressed).dec.touchKind ≠ .none ∧
      (0x00 : Byte) ≠ 0xC8 ∧ (0x00 : Byte) ≠ 0x88 ∧ (st 0 .none).dec.MarkerInvariant := by decide
theorem test_witness_FrameOperationIsFiveByteSteps :
    (Instr.press 1 2).byteCount = 5 ∧
      (st 3 .none ([0xC8, 0, 1, 0, 2].map Offer.byte)).source = (Instr.press 1 2).bytes.map Offer.byte ++ [] := by decide
theorem test_witness_AssembledProgramRunsItsDirectives :
    (st 0 .none (assemble [.reset, .press 1 2, .hold])).source = assemble [.reset, .press 1 2, .hold] ++ [] := by decide
theorem test_witness_InstancesShareNothing :
    [st 0 .none, st 4 .pressed][1]? = some (st 4 .pressed) ∧ (0 : Nat) ≠ 1 := by decide

end Sys2Proof.Tests
end

