-- ==== Sys2Proof/Proofs/Scope.lean ====
section
/-!
PROOFS. One step as a whole (spec/00_scope.md R6): what it executes and from which state.
-/

namespace Sys2Proof.Machine

/-- With something offered, a step runs what the first offer selects at the present position, that offer consumed. -/
theorem step_of_source_cons {s : State} {o : Offer} {rest : List Offer} (h : s.source = o :: rest) :
    step s = exec (decode s.dec.writeIndex o) { s with source := rest } := by
  rw [step, State.fetch_cons h]

/-- With nothing offered, a step is HOLD (R69). -/
theorem step_of_source_nil {s : State} (h : s.source = []) : step s = exec .hold s := by
  rw [step, State.fetch_nil h]

/-- Settles O12: each clause is one of the two things a fetch can answer. -/
theorem stepRunsTheDecodedOperation : Obligations.StepRunsTheDecodedOperation := by
  unfold Obligations.StepRunsTheDecodedOperation
  exact ⟨fun _ _ _ offered => step_of_source_cons offered, fun _ idle => step_of_source_nil idle⟩

end Sys2Proof.Machine
end

/-!
PROOFS. The state of one decoder (spec/10_state.md): the counter, the latch, the derived phase, the data registers, the
bit image, the marker invariant of R20, and the two-run relation behind R21.
-/

namespace Sys2Proof.Machine

/-! ## What a step does to the decoder -/

/-- A step of the ports, as its effect on the decoder: reset, unchanged, or the byte fed. -/
theorem step_of_sample_dec {s : State} {p : Sample} {rest : List Offer} (h : s.source = .sample p :: rest) :
    ∃ t, step s = .next t ∧
      ((p.rst = true ∧ t.dec = ⟨drawnPayload s.draws, 0, .none⟩) ∨
       (p.rst = false ∧ p.inValid = false ∧ t.dec = s.dec) ∨
       (p.rst = false ∧ p.inValid = true ∧ t.dec = (s.dec.feed p.inByte).1)) := by
  obtain ⟨rst, stepped⟩ | ⟨rst, valid, stepped⟩ | ⟨rst, valid, stepped⟩ := step_of_sample h
  · exact ⟨_, stepped, .inl ⟨rst, rfl⟩⟩
  · exact ⟨_, stepped, .inr (.inl ⟨rst, valid, rfl⟩)⟩
  · exact ⟨_, stepped, .inr (.inr ⟨rst, valid, rfl⟩)⟩

/-- Which of the three things a step is, HOLD, RESET or bytes fed, and which bytes, is decided by what is offered alone,
whatever else the state holds. -/
theorem step_by_source (source : List Offer) : ∃ rest : List Offer,
    (∀ s : State, s.source = source → step s = exec .hold { s with source := rest }) ∨
    (∀ s : State, s.source = source → step s = exec .reset { s with source := rest }) ∨
    ∃ bytes : List Byte, ∀ s : State, s.source = source →
      step s = .next (({ s with source := rest } : State).feedBytes bytes) := by
  cases source with
  | nil => exact ⟨[], .inl fun s h => h ▸ step_of_source_nil h⟩
  | cons o rest =>
    refine ⟨rest, ?_⟩
    match o with
    | .frame f => exact .inr (.inr ⟨f.toList, fun _ => step_of_frame⟩)
    | .sample ⟨true, _, _⟩ => exact .inr (.inl fun _ => step_of_source_cons)
    | .sample ⟨false, false, _⟩ => exact .inl fun _ => step_of_source_cons
    | .sample ⟨false, true, b⟩ => exact .inr (.inr ⟨[b], fun _ => step_of_byte⟩)

/-- The event of a byte (R47, R67): at the last position under a set latch, with that byte as the low byte of `y`. -/
theorem Decoder.feed_evt (d : Decoder) (b : Byte) :
    (d.feed b).2.evt =
      if d.writeIndex = 4 ∧ d.touchKind ≠ .none then
        some ⟨assembleCoord d.payload.xh d.payload.xl, assembleCoord d.payload.yh b, d.touchKind == .pressed⟩
      else none := by
  split
  case isFalse h => exact not_not.mp fun emits => h ((d.feed_evt_ne_none b).mp emits)
  case isTrue h =>
    obtain ⟨last, latched⟩ := h
    have accepting : d.touchKind.accepting = true := by
      rw [← Bool.not_eq_false, TouchKind.accepting_eq_false.not]
      exact latched
    rw [← Decoder.payYl_eq_feed last, Decoder.payYl, if_pos accepting]

/-! ## The marker invariant (R20) -/

/-- Bytes fed keep the marker invariant: after one it holds, and before the first it held. -/
theorem State.feedBytes_markerInvariant {s : State} (bytes : List Byte) (h : s.dec.MarkerInvariant) :
    (s.feedBytes bytes).dec.MarkerInvariant := by
  induction bytes generalizing s with
  | nil => exact h
  | cons b bs ih => exact ih (s.dec.feed_markerInvariant b)

/-- Settles O41: HOLD keeps the decoder, RESET leaves no touch latched, and bytes fed keep the invariant. -/
theorem stepKeepsTheMarkerInvariant : Obligations.StepKeepsTheMarkerInvariant := by
  unfold Obligations.StepKeepsTheMarkerInvariant
  intro s inv
  obtain ⟨rest, hold | reset | ⟨bytes, fed⟩⟩ := step_by_source s.source
  · exact ⟨_, hold s rfl, inv⟩
  · exact ⟨_, reset s rfl, fun _ => rfl⟩
  · exact ⟨_, fed s rfl, State.feedBytes_markerInvariant bytes inv⟩

/-! ## Two runs that differ in their data registers (R21) -/

/-- Two decoders in the same control state whose windows, if they are to emit, have stored the same bytes so far. The
registers not yet stored in this window, and all of them while no touch is latched, may differ. -/
def Decoder.SameWindow (d e : Decoder) : Prop :=
  d.SameControl e ∧
    (d.touchKind ≠ .none → ∀ j : Fin Params.payloadLen, j.val + 1 < d.writeIndex.val →
      d.payload.get j = e.payload.get j)

/-- At marker position no byte of the window is stored yet. -/
theorem Decoder.SameWindow.of_marker_position {d e : Decoder} (same : d.SameControl e) (h : d.writeIndex = 0) :
    d.SameWindow e := by
  refine ⟨same, fun _ j stored => ?_⟩
  rw [h] at stored
  exact absurd stored (Nat.not_lt_zero _)

section SameWindow
variable {d e : Decoder} (same : d.SameWindow e) (b : Byte)
include same

/-- The same byte has the same outputs: an event reads the three registers stored before, and the byte itself. -/
theorem Decoder.SameWindow.feed_out : (d.feed b).2 = (e.feed b).2 := by
  obtain ⟨⟨wi, kind⟩, stored⟩ := same
  have evt : (d.feed b).2.evt = (e.feed b).2.evt := by
    rw [d.feed_evt, e.feed_evt, ← wi, ← kind]
    by_cases emits : d.writeIndex = 4 ∧ d.touchKind ≠ .none
    · obtain ⟨last, latched⟩ := emits
      have registers : ∀ j : Fin Params.payloadLen, j.val < 3 → d.payload.get j = e.payload.get j := fun j hj =>
        stored latched j (by rw [last]; exact Nat.succ_lt_succ hj)
      simp only [registers 0 (by decide), registers 1 (by decide), registers 2 (by decide)]
    · rw [if_neg emits, if_neg emits]
  have diag : (d.feed b).2.diag = (e.feed b).2.diag := by
    rw [d.feed_diag, e.feed_diag, wi]
  exact congrArg₂ StepOut.mk evt diag

/-- The same byte leaves the control states the same. -/
theorem Decoder.SameWindow.feed_control : (d.feed b).1.SameControl (e.feed b).1 := by
  obtain ⟨⟨wi, kind⟩, -⟩ := same
  exact ⟨by simp only [Decoder.feed_writeIndex, wi], by simp only [Decoder.feed_touchKind, wi, kind]⟩

/-- The same byte keeps the windows the same: what it stores, it stores in both. -/
theorem Decoder.SameWindow.feed : (d.feed b).1.SameWindow (e.feed b).1 := by
  refine ⟨same.feed_control b, fun latched' j stored' => ?_⟩
  obtain ⟨⟨wi, kind⟩, stored⟩ := same
  rw [Decoder.feed_writeIndex, nextIndex_val] at stored'
  have payloadPosition : d.writeIndex ≠ 0 := fun h => by simp [h] at stored'
  have notLast : d.writeIndex ≠ 4 := fun h => by simp [h] at stored'
  have latched : d.touchKind ≠ .none := by
    rwa [Decoder.feed_touchKind, if_neg notLast, if_neg payloadPosition] at latched'
  rw [d.feed_payload, e.feed_payload, ← wi, ← kind, if_pos ⟨payloadPosition, latched⟩,
    if_pos ⟨payloadPosition, latched⟩, Payload.get_set, Payload.get_set]
  split
  case isTrue => rfl
  case isFalse other =>
    have other' : d.writeIndex.val - 1 ≠ j.val := fun h => other (Fin.ext h)
    exact stored latched j (by omega)

end SameWindow

/-- Two machines that are offered the same, have output the same and stand in the same window. -/
def State.SameView (s t : State) : Prop :=
  s.source = t.source ∧ s.sink = t.sink ∧ s.dec.SameWindow t.dec

theorem State.SameView.feedBytes {s t : State} (same : s.SameView t) (bytes : List Byte) :
    (s.feedBytes bytes).SameView (t.feedBytes bytes) := by
  induction bytes generalizing s t with
  | nil => exact same
  | cons b bs ih =>
    obtain ⟨source, sink, window⟩ := same
    refine ih ⟨source, ?_, window.feed b⟩
    rw [State.feedByte_sink, State.feedByte_sink, sink, window.feed_out b]

/-- One step of both machines: RESET leaves both at marker position, where no register counts, whatever each draws. -/
theorem State.SameView.step {s t : State} (same : s.SameView t) :
    ∃ s' t', Machine.step s = .next s' ∧ Machine.step t = .next t' ∧ s'.SameView t' := by
  obtain ⟨source, sink, window⟩ := same
  have sink' : s.sink ++ [StepOut.silent] = t.sink ++ [StepOut.silent] := by rw [sink]
  obtain ⟨rest, hold | reset | ⟨bytes, fed⟩⟩ := step_by_source t.source
  · exact ⟨_, _, hold s source, hold t rfl, rfl, sink', window⟩
  · exact ⟨_, _, reset s source, reset t rfl, rfl, sink', .of_marker_position ⟨rfl, rfl⟩ rfl⟩
  · have consumed : ({ s with source := rest } : State).SameView { t with source := rest } := ⟨rfl, sink, window⟩
    exact ⟨_, _, fed s source, fed t rfl, consumed.feedBytes bytes⟩

theorem State.SameView.run {s t : State} (same : s.SameView t) (n : Nat) :
    ∃ s' t', Sys2Proof.core.run n s = .next s' ∧ Sys2Proof.core.run n t = .next t' ∧ s'.SameView t' := by
  induction n generalizing s t with
  | zero => exact ⟨s, t, rfl, rfl, same⟩
  | succ n ih =>
    obtain ⟨s1, t1, stepS, stepT, same1⟩ := same.step
    rw [run_succ_of_step stepS, run_succ_of_step stepT]
    exact ih same1

/-- Settles O48: `SameView` holds at marker position, and every step keeps it. -/
theorem outputsIgnoreTheResetPayload : Obligations.OutputsIgnoreTheResetPayload := by
  unfold Obligations.OutputsIgnoreTheResetPayload
  intro n s t source sink control marker _
  have same : s.SameView t := ⟨source, sink, .of_marker_position control marker⟩
  obtain ⟨s', t', runS, runT, -, sink', control', -⟩ := same.run n
  exact ⟨s', t', runS, runT, sink', control'⟩

/-! ## The counter, the data registers and the latch in one step of the ports -/

/-- Settles O32: the counter rule of R12, one case per kind of step. -/
theorem counterAdvancesByOneAndWraps : Obligations.CounterAdvancesByOneAndWraps := by
  unfold Obligations.CounterAdvancesByOneAndWraps
  intro s p rest offered
  obtain ⟨t, stepped, ⟨rst, dec⟩ | ⟨rst, valid, dec⟩ | ⟨rst, valid, dec⟩⟩ := step_of_sample_dec offered
  · exact ⟨t, stepped, by simp [dec, rst]⟩
  · exact ⟨t, stepped, by simp [dec, rst, valid]⟩
  · refine ⟨t, stepped, ?_⟩
    have bound := s.dec.writeIndex.val_lt_five
    rw [dec, Decoder.feed_writeIndex, nextIndex_val, rst, valid, if_neg Bool.false_ne_true, if_pos rfl]
    split <;> omega

/-- A byte changes a data register only as the store of the register's own position under a set latch (R11, R33). -/
theorem Decoder.feed_changes_register {d : Decoder} {b : Byte} {j : Fin Params.payloadLen}
    (changed : (d.feed b).1.payload.get j ≠ d.payload.get j) :
    d.touchKind ≠ .none ∧ d.writeIndex.val = j.val + 1 ∧ (d.feed b).1.payload.get j = b := by
  rw [Decoder.feed_payload] at changed ⊢
  split at changed
  case isFalse => exact absurd rfl changed
  case isTrue stores =>
    obtain ⟨payloadPosition, latched⟩ := stores
    have own : payloadIndex d.writeIndex = j := by
      by_contra other
      exact changed (Payload.get_set_of_ne _ other b)
    have index : d.writeIndex.val - 1 = j.val := congrArg Fin.val own
    have positive : d.writeIndex.val ≠ 0 := fun h => payloadPosition (Fin.ext h)
    rw [if_pos ⟨payloadPosition, latched⟩, own, Payload.get_set_same]
    exact ⟨latched, by omega, rfl⟩

/-- Settles O36: HOLD keeps the registers, and a byte changes only the register of its position. -/
theorem dataRegistersAreWrittenOnlyByTheirStore : Obligations.DataRegistersAreWrittenOnlyByTheirStore := by
  unfold Obligations.DataRegistersAreWrittenOnlyByTheirStore
  intro s p rest j offered
  obtain ⟨t, stepped, effect⟩ := step_of_sample_dec offered
  refine ⟨t, stepped, fun changed => ?_⟩
  obtain ⟨rst, -⟩ | ⟨-, -, dec⟩ | ⟨-, valid, dec⟩ := effect
  · exact .inl rst
  · exact absurd (by rw [dec]) changed
  · rw [dec] at changed ⊢
    exact .inr ⟨valid, Decoder.feed_changes_register changed⟩

/-- A byte changes the latch only as a marker at marker position or by completing a window (R13). -/
theorem Decoder.feed_changes_latch {d : Decoder} {b : Byte} (changed : (d.feed b).1.touchKind ≠ d.touchKind) :
    (d.writeIndex = 0 ∧ b = 0xC8 ∧ (d.feed b).1.touchKind = .pressed) ∨
    (d.writeIndex = 0 ∧ b = 0x88 ∧ (d.feed b).1.touchKind = .released) ∨
    (d.writeIndex = 4 ∧ (d.feed b).1.touchKind = .none) := by
  rw [Decoder.feed_touchKind] at changed ⊢
  split_ifs at changed ⊢ with last marker press release
  · exact .inr (.inr ⟨last, rfl⟩)
  · exact .inl ⟨marker, press, rfl⟩
  · exact .inr (.inl ⟨marker, release, rfl⟩)
  all_goals exact absurd rfl changed

/-- Settles O37: RESET clears the latch, HOLD keeps it, and a byte changes it in the three ways of R13. -/
theorem latchChangesOnlyByMarkerCompletionOrReset : Obligations.LatchChangesOnlyByMarkerCompletionOrReset := by
  unfold Obligations.LatchChangesOnlyByMarkerCompletionOrReset
  intro s p rest offered
  obtain ⟨t, stepped, effect⟩ := step_of_sample_dec offered
  refine ⟨t, stepped, fun changed => ?_⟩
  obtain ⟨rst, dec⟩ | ⟨-, -, dec⟩ | ⟨-, valid, dec⟩ := effect
  · exact .inl ⟨rst, by rw [dec]⟩
  · exact absurd (by rw [dec]) changed
  · rw [dec] at changed ⊢
    exact .inr ((Decoder.feed_changes_latch changed).imp (.intro valid) (.imp (.intro valid) (.intro valid)))

/-! ## Operations and the environment -/

/-- Settles O39: each of the three formats of R53 computes its decoder, draws and new outputs from the decoder and the
draws. -/
theorem operationsIgnoreTheEnvironmentsRecords : Obligations.OperationsIgnoreTheEnvironmentsRecords := by
  unfold Obligations.OperationsIgnoreTheEnvironmentsRecords
  rintro i ⟨d, sourceS, sinkS, n⟩ ⟨_, sourceT, sinkT, _⟩ rfl rfl
  obtain frame | ⟨b, byte⟩ | rfl | rfl := Instr.frame_or_byte_or_control i
  · simp only [exec_of_frame _ frame, State.feedBytes_eq]
    exact ⟨_, _, _, rfl, rfl⟩
  · simp only [exec_of_byte _ byte]
    exact ⟨_, _, _, rfl, rfl⟩
  · exact ⟨_, _, _, rfl, rfl⟩
  · exact ⟨_, _, _, rfl, rfl⟩

/-! ## The reachable control states (R23) -/

/-- Settles O40: RESET latches no touch. -/
theorem resetMeetsTheMarkerInvariant : Obligations.ResetMeetsTheMarkerInvariant := by
  unfold Obligations.ResetMeetsTheMarkerInvariant
  exact fun _ => rfl

/-- The step lemma of O41 over a whole run. -/
theorem run_keeps_markerInvariant {n : Nat} {s t : State} (inv : s.dec.MarkerInvariant)
    (ran : Sys2Proof.core.run n s = .next t) : t.dec.MarkerInvariant := by
  induction n generalizing s with
  | zero => cases ran; exact inv
  | succ n ih =>
    obtain ⟨s1, stepped, inv1⟩ := stepKeepsTheMarkerInvariant s inv
    rw [run_succ_of_step stepped] at ran
    exact ih inv1 ran

/-- A byte that at marker position leaves the latch `k`, if none was latched. -/
def TouchKind.markerByte : TouchKind → Byte
  | .none => 0
  | .pressed => 0xC8
  | .released => 0x88

/-- The first `wi` bytes of a window opened for `k`. -/
def windowPrefix (wi : WriteIndex) (k : TouchKind) : List Byte :=
  (k.markerByte :: List.replicate Params.payloadLen 0).take wi.val

/-- Fed from reset, a window's first bytes lead to the control state they are named for. -/
theorem feedAll_windowPrefix (wi : WriteIndex) {k : TouchKind} (legal : wi ≠ 0 ∨ k = .none) :
    (State.reset.dec.feedAllWith Params.retainKindOnBadMarker (windowPrefix wi k)).1.SameControl
      ⟨State.reset.dec.payload, wi, k⟩ := by
  unfold Decoder.SameControl
  cases k <;> revert wi <;> decide

/-- Each control state that meets the marker invariant is reached from reset. -/
theorem control_reachable {wi : WriteIndex} {k : TouchKind} (legal : wi ≠ 0 ∨ k = .none) :
    ∃ (n : Nat) (offers : List Offer) (t : State),
      Sys2Proof.core.run n { State.reset with source := offers } = .next t ∧
        t.dec.writeIndex = wi ∧ t.dec.touchKind = k := by
  have ran := run_of_bytes (s := { State.reset with source := (windowPrefix wi k).map Offer.byte }) (rest := [])
    (windowPrefix wi k) (List.append_nil _).symm
  rw [State.feedBytes_eq] at ran
  exact ⟨_, _, _, ran, feedAll_windowPrefix wi legal⟩

/-- Settles O42: the invariant excludes the two other pairs, and a window's first bytes reach the thirteen. -/
theorem reachableControlStates : Obligations.ReachableControlStates := by
  unfold Obligations.ReachableControlStates
  refine ⟨fun wi k => ⟨?_, control_reachable⟩, by decide⟩
  rintro ⟨n, offers, t, ran, rfl, rfl⟩
  have inv := run_keeps_markerInvariant (s := { State.reset with source := offers }) resetMeetsTheMarkerInvariant ran
  exact or_iff_not_imp_left.mpr fun marker => inv (not_not.mp marker)

/-! ## The bit image (R15) -/

/-- The counter's bits stand for the value they encode, and for no other (D8). -/
theorem indexOfBits_eq_some_iff {v : BitVec Params.wiW} {wi : WriteIndex} :
    indexOfBits v = some wi ↔ indexBits wi = v := by
  have fits : wi.val < 2 ^ Params.wiW := wi.isLt.trans_le Params.frameLen_le_two_pow_wiW
  have toNat : (indexBits wi).toNat = wi.val := Nat.mod_eq_of_lt fits
  unfold indexOfBits
  constructor
  · intro h
    split at h
    · cases h
      exact BitVec.eq_of_toNat_eq toNat
    · cases h
  · rintro rfl
    simp only [toNat, wi.isLt, dite_true]

/-- 5, 6 and 7 are no values of the counter (R23, D15). -/
theorem indexOfBits_eq_none_iff {v : BitVec Params.wiW} : indexOfBits v = none ↔ 5 ≤ v.toNat := by
  rw [indexOfBits, dite_eq_right_iff]
  simp

/-- The latch's bits stand for the value they encode, and for no other (D9). -/
theorem TouchKind.ofBits_eq_some_iff {v : BitVec Params.kindW} {k : TouchKind} :
    TouchKind.ofBits v = some k ↔ k.bits = v := by
  cases k <;> revert v <;> decide

/-- 0b11 is no value of the latch (R23, D15). -/
theorem TouchKind.ofBits_eq_none_iff {v : BitVec Params.kindW} : TouchKind.ofBits v = Option.none ↔ v = 0b11 := by
  revert v; decide

/-- Bits are read as a decoder exactly when they are its image. -/
theorem RegisterImage.decoder?_eq_some_iff {r : RegisterImage} {d : Decoder} : r.decoder? = some d ↔ d.image = r := by
  obtain ⟨payload, wi, kind⟩ := r
  obtain ⟨p, i, k⟩ := d
  simp only [Decoder.image, RegisterImage.mk.injEq, ← indexOfBits_eq_some_iff, ← TouchKind.ofBits_eq_some_iff,
    RegisterImage.decoder?]
  cases indexOfBits wi <;> cases TouchKind.ofBits kind <;> simp [eq_comm]

/-- Bits are no decoder exactly when one of the two control fields is no value. -/
theorem RegisterImage.decoder?_eq_none_iff {r : RegisterImage} :
    r.decoder? = none ↔ indexOfBits r.wi = none ∨ TouchKind.ofBits r.kind = none := by
  unfold RegisterImage.decoder?
  cases indexOfBits r.wi <;> cases TouchKind.ofBits r.kind <;> simp

/-- Settles O43: reading the image back is its inverse, field by field. -/
theorem registerImagesRoundTrip : Obligations.RegisterImagesRoundTrip := by
  unfold Obligations.RegisterImagesRoundTrip
  refine ⟨fun d => RegisterImage.decoder?_eq_some_iff.mpr rfl, fun r d => RegisterImage.decoder?_eq_some_iff.mp,
    fun r => ?_⟩
  rw [RegisterImage.decoder?_eq_none_iff, indexOfBits_eq_none_iff, TouchKind.ofBits_eq_none_iff]

/-! ## The phase (R14) and the state after reset (R22) -/

@[simp] theorem Decoder.phase_eq_idle {d : Decoder} : d.phase = .idle ↔ d.writeIndex = 0 := by
  unfold Decoder.phase
  split <;> simp [*]

@[simp] theorem Decoder.phase_eq_awaitingPayload {d : Decoder} : d.phase = .awaitingPayload ↔ d.writeIndex ≠ 0 := by
  unfold Decoder.phase
  split <;> simp [*]

/-- Settles O1: the control fields are the reset values, and the phase follows from the counter. -/
theorem resetIsIdleWithNoTouch : Obligations.ResetIsIdleWithNoTouch := by
  unfold Obligations.ResetIsIdleWithNoTouch
  exact ⟨rfl, rfl, Decoder.phase_eq_idle.mpr rfl⟩

/-- Settles O2: the five positions are 0 and 1 to 4. -/
theorem phaseIsAViewOfWriteIndex : Obligations.PhaseIsAViewOfWriteIndex := by
  unfold Obligations.PhaseIsAViewOfWriteIndex
  refine ⟨fun d => ⟨Decoder.phase_eq_idle, Decoder.phase_eq_awaitingPayload.trans ?_⟩,
    Decoder.phase_eq_idle.mpr rfl⟩
  have bound := d.writeIndex.val_lt_five
  rw [Ne, Fin.ext_iff, Fin.val_zero]
  omega

end Sys2Proof.Machine

/-!
PROOFS. What the environment is handed (spec/20_memory.md R32, R35, R37, R40, R42): which operation a byte is, how many
outputs an operation delivers, and what the output ports show.
-/

namespace Sys2Proof

/-- An operation has as many bytes as the operation table gives it (R50, R53). -/
theorem Instr.length_bytes (i : Instr) : i.bytes.length = i.byteCount := by
  cases i <;> rfl

/-- An operation that is a byte is one byte wide (R50). -/
theorem Instr.byteCount_of_byte {i : Instr} {b : Byte} (h : i.byte? = some b) : i.byteCount = 1 := by
  by_contra other
  rw [Instr.byte?, if_neg other] at h
  cases h

end Sys2Proof

namespace Sys2Proof.Machine

/-- Settles O29: the operation asked for and the one the map selects both feed the byte. -/
theorem positionDecidesWhatAByteDoes : Obligations.PositionDecidesWhatAByteDoes := by
  unfold Obligations.PositionDecidesWhatAByteDoes
  intro i b s byte
  rw [exec_of_byte s byte, exec_decodeByte]

/-- Bytes fed deliver one output each, after all earlier ones (R37). -/
theorem State.feedBytes_appends_outputs (s : State) (bytes : List Byte) :
    ∃ outs, (s.feedBytes bytes).sink = s.sink ++ outs ∧ outs.length = bytes.length := by
  rw [State.feedBytes_eq]
  exact ⟨_, rfl, Decoder.feedAllWith_length ..⟩

/-- Settles O38: a frame delivers an output per byte, a byte operation one, HOLD and RESET one. -/
theorem outputsAreAppendedInStepOrder : Obligations.OutputsAreAppendedInStepOrder := by
  unfold Obligations.OutputsAreAppendedInStepOrder
  intro i s
  obtain frame | ⟨b, byte⟩ | rfl | rfl := Instr.frame_or_byte_or_control i
  · obtain ⟨outs, sink, length⟩ := s.feedBytes_appends_outputs i.bytes
    have count : outs.length = max 1 i.byteCount := by rw [length, i.length_bytes, frame]; rfl
    exact ⟨_, outs, exec_of_frame s frame, sink, count, s.feedBytes_source i.bytes⟩
  · have count : 1 = max 1 i.byteCount := by rw [Instr.byteCount_of_byte byte]; rfl
    exact ⟨_, _, exec_of_byte s byte, s.feedByte_sink b, count, s.feedByte_source b⟩
  · exact ⟨_, _, exec_hold s, rfl, rfl, rfl⟩
  · exact ⟨_, _, exec_reset s, rfl, rfl, rfl⟩

/-! ## The output ports (R121) -/

/-- Levels show an event when they are valid and hold all of its fields together (R35). -/
theorem OutPorts.shows_event_iff {p : OutPorts} {e : TouchEvent} {diag : Bool} :
    p.shows ⟨some e, diag⟩ = true ↔
      p.evtValid = true ∧ p.evtX = e.x ∧ p.evtY = e.y ∧ p.evtPressed = e.pressed ∧ p.diagBadMarker = diag := by
  simp only [OutPorts.shows, Bool.and_eq_true, beq_iff_eq]
  tauto

/-- Levels show that there is no event when they are not valid, whatever the field ports hold (D4). -/
theorem OutPorts.shows_no_event_iff {p : OutPorts} {diag : Bool} :
    p.shows ⟨none, diag⟩ = true ↔ p.evtValid = false ∧ p.diagBadMarker = diag := by
  simp only [OutPorts.shows, Bool.and_eq_true, beq_iff_eq, Bool.not_eq_true', and_comm]

/-- Settles O56: with and without an event, levels show exactly what the ports of R121 say. -/
theorem portsShowEventsWhole : Obligations.PortsShowEventsWhole := by
  unfold Obligations.PortsShowEventsWhole
  exact ⟨fun _ _ _ => OutPorts.shows_event_iff, fun _ _ => OutPorts.shows_no_event_iff⟩

end Sys2Proof.Machine

/-!
PROOFS. The encoding (spec/30_encoding.md): what a byte, a frame and a table word decode to, the encoder as the
decoder's inverse, the assembly of a stream's lines, and the coordinates of an event.
-/

namespace Sys2Proof

open Sys2Proof.Machine

/-! ## The operation map (R48) -/

/-- The three rows of marker position. -/
theorem decodeByte_zero (b : Byte) :
    decodeByte 0 b = if b = 0xC8 then .markP else if b = 0x88 then .markR else .markBad b := rfl

theorem decodeByte_zero_eq_markP_iff {b : Byte} : decodeByte 0 b = .markP ↔ b = 0xC8 := by
  rw [decodeByte_zero]
  split_ifs with press release
  · exact iff_of_true rfl press
  · exact iff_of_false nofun press
  · exact iff_of_false nofun press

theorem decodeByte_zero_eq_markR_iff {b : Byte} : decodeByte 0 b = .markR ↔ b = 0x88 := by
  rw [decodeByte_zero]
  split_ifs with press release
  · exact iff_of_false nofun (press ▸ by decide)
  · exact iff_of_true rfl release
  · exact iff_of_false nofun release

theorem decodeByte_zero_eq_markBad_iff {b : Byte} : decodeByte 0 b = .markBad b ↔ b ≠ 0xC8 ∧ b ≠ 0x88 := by
  rw [decodeByte_zero]
  split_ifs with press release
  · exact iff_of_false nofun fun other => other.1 press
  · exact iff_of_false nofun fun other => other.2 release
  · exact iff_of_true rfl ⟨press, release⟩

theorem Instr.wellFormed_markBad_iff {b : Byte} : (Instr.markBad b).wellFormed = true ↔ b ≠ 0xC8 ∧ b ≠ 0x88 := by
  rw [Instr.wellFormed, Bool.not_eq_true', Params.isMarker_eq_false_iff]

theorem Instr.wellFormed_junk_iff {m b1 b2 b3 b4 : Byte} :
    (Instr.junk m b1 b2 b3 b4).wellFormed = true ↔ m ≠ 0xC8 ∧ m ≠ 0x88 := by
  rw [Instr.wellFormed, Bool.not_eq_true', Params.isMarker_eq_false_iff]

/-- The operation a byte selects is well-formed, of the byte's position, and has that byte. -/
theorem decodeByte_spec (wi0 : WriteIndex) (b : Byte) :
    (decodeByte wi0 b).wellFormed = true ∧ (decodeByte wi0 b).position? = some wi0 ∧
      (decodeByte wi0 b).byte? = some b := by
  obtain rfl | rfl | rfl | rfl | rfl := position_cases wi0
  · rw [decodeByte_zero]
    split_ifs with press release
    · exact ⟨rfl, rfl, congrArg some press.symm⟩
    · exact ⟨rfl, rfl, congrArg some release.symm⟩
    · exact ⟨Instr.wellFormed_markBad_iff.mpr ⟨press, release⟩, rfl, rfl⟩
  all_goals exact ⟨rfl, rfl, rfl⟩

/-! ## The encoder is the decoder's inverse (R45, R48) -/

/-- A byte operation belongs to one position, is encoded as its byte, and is what the map selects for that byte there. -/
theorem Instr.encoding_of_byte {i : Instr} {b : Byte} (byte : i.byte? = some b) :
    ∃ wi0, i.position? = some wi0 ∧ encode i = .byte b ∧ (i.wellFormed = true → decodeByte wi0 b = i) := by
  cases i with
  | markP => cases byte; exact ⟨0, rfl, rfl, fun _ => rfl⟩
  | markR => cases byte; exact ⟨0, rfl, rfl, fun _ => rfl⟩
  | markBad m =>
    cases byte
    exact ⟨0, rfl, rfl, fun wf => decodeByte_zero_eq_markBad_iff.mpr (Instr.wellFormed_markBad_iff.mp wf)⟩
  | payXh m => cases byte; exact ⟨1, rfl, rfl, fun _ => rfl⟩
  | payXl m => cases byte; exact ⟨2, rfl, rfl, fun _ => rfl⟩
  | payYh m => cases byte; exact ⟨3, rfl, rfl, fun _ => rfl⟩
  | payYl m => cases byte; exact ⟨4, rfl, rfl, fun _ => rfl⟩
  | hold | reset | press _ _ | release _ _ | junk _ _ _ _ _ => cases byte

theorem decodeFrame_press (x y : Coord) : decodeFrame (frameBytes 0xC8 x y) = .press x y := by
  rw [frameBytes, decodeFrame_bytes5, if_pos rfl, append_high_low, append_high_low]

theorem decodeFrame_release (x y : Coord) : decodeFrame (frameBytes 0x88 x y) = .release x y := by
  rw [frameBytes, decodeFrame_bytes5, if_neg (by decide), if_pos rfl, append_high_low, append_high_low]

/-- A frame-level operation is encoded as the frame of its bytes, and is what that frame decodes to. -/
theorem Instr.encoding_of_frame {i : Instr} (frame : i.byteCount = 5) :
    ∃ f, encode i = .frame f ∧ i.bytes = f.toList ∧ (i.wellFormed = true → decodeFrame f = i) := by
  cases i with
  | press x y => exact ⟨_, rfl, rfl, fun _ => decodeFrame_press x y⟩
  | release x y => exact ⟨_, rfl, rfl, fun _ => decodeFrame_release x y⟩
  | junk m b1 b2 b3 b4 =>
    refine ⟨_, rfl, rfl, fun wf => ?_⟩
    obtain ⟨press, release⟩ := Instr.wellFormed_junk_iff.mp wf
    exact decodeFrame_of_other press release b1 b2 b3 b4
  | markP | markR | markBad _ | payXh _ | payXl _ | payYh _ | payYl _ | hold | reset => cases frame

/-- Settles O8: one case per format of R53; of a byte operation, the position it is decoded at is its own. -/
theorem decodeOfEncodeIsTheInstruction : Obligations.DecodeOfEncodeIsTheInstruction := by
  unfold Obligations.DecodeOfEncodeIsTheInstruction
  intro i wi0 wf selects
  obtain frame | ⟨b, byte⟩ | rfl | rfl := Instr.frame_or_byte_or_control i
  · obtain ⟨f, encoded, -, decoded⟩ := Instr.encoding_of_frame frame
    rw [encoded]
    exact decoded wf
  · obtain ⟨own, position, encoded, decoded⟩ := Instr.encoding_of_byte byte
    obtain rfl := selects own position
    rw [encoded]
    exact decoded wf
  · rfl
  · rfl

/-- Settles O5: a byte operation is what its byte selects at its position, and the map answers such an operation. -/
theorem everyByteSelectsExactlyOneOperation : Obligations.EveryByteSelectsExactlyOneOperation := by
  unfold Obligations.EveryByteSelectsExactlyOneOperation
  intro wi0 b i
  constructor
  · rintro ⟨wf, position, byte⟩
    obtain ⟨own, position', -, decoded⟩ := Instr.encoding_of_byte byte
    obtain rfl : wi0 = own := Option.some.inj (position.symm.trans position')
    exact (decoded wf).symm
  · rintro rfl
    exact decodeByte_spec wi0 b

/-- The byte values that select MARK_BAD: all of them but the two markers. -/
theorem filter_markBad_eq_erase_markers :
    ((List.range 256).filter fun n => decodeByte 0 (BitVec.ofNat 8 n) == .markBad (BitVec.ofNat 8 n)) =
      ((List.range 256).erase 0xC8).erase 0x88 := by
  have nodup : (List.range 256).Nodup := List.nodup_range
  rw [(nodup.erase _).erase_eq_filter, nodup.erase_eq_filter, List.filter_filter]
  refine List.filter_congr fun n inRange => ?_
  have value (b : Byte) : BitVec.ofNat 8 n = b ↔ n = b.toNat := by
    rw [BitVec.toNat_eq, BitVec.toNat_ofNat, Nat.mod_eq_of_lt (List.mem_range.mp inRange)]
  rw [Bool.eq_iff_iff, beq_iff_eq, decodeByte_zero_eq_markBad_iff, Ne, Ne, value, value, Bool.and_eq_true,
    bne_iff_ne, bne_iff_ne, and_comm]
  rfl

/-- Settles O6: the three rows of marker position, and 256 byte values without two. -/
theorem markersAreMatchedAsWholeBytes : Obligations.MarkersAreMatchedAsWholeBytes := by
  unfold Obligations.MarkersAreMatchedAsWholeBytes
  refine ⟨fun _ => decodeByte_zero_eq_markP_iff, fun _ => decodeByte_zero_eq_markR_iff,
    fun _ => decodeByte_zero_eq_markBad_iff, ?_⟩
  have press : 0xC8 ∈ List.range 256 := List.mem_range.mpr (by decide)
  have release : 0x88 ∈ (List.range 256).erase 0xC8 :=
    (List.mem_erase_of_ne (by decide)).mpr (List.mem_range.mpr (by decide))
  rw [filter_markBad_eq_erase_markers, List.length_erase_of_mem release, List.length_erase_of_mem press,
    List.length_range]

/-- What a frame decodes to is well-formed: a first byte that is a marker makes it no JUNK (R82). -/
theorem decodeFrame_wellFormed (f : Frame) : (decodeFrame f).wellFormed = true := by
  rw [f.eq_bytes, decodeFrame_bytes5]
  split_ifs with press release
  · rfl
  · rfl
  · exact Instr.wellFormed_junk_iff.mpr ⟨press, release⟩

theorem decode_wellFormed (wi0 : WriteIndex) (o : Offer) : (decode wi0 o).wellFormed = true := by
  match o with
  | .frame f => exact decodeFrame_wellFormed f
  | .sample ⟨true, _, _⟩ => rfl
  | .sample ⟨false, false, _⟩ => rfl
  | .sample ⟨false, true, b⟩ => exact (decodeByte_spec wi0 b).left

theorem encode_decodeByte (wi0 : WriteIndex) (b : Byte) : encode (decodeByte wi0 b) = .byte b := by
  obtain ⟨-, -, byte⟩ := decodeByte_spec wi0 b
  obtain ⟨-, -, encoded, -⟩ := Instr.encoding_of_byte byte
  exact encoded

theorem encode_decodeFrame (f : Frame) : encode (decodeFrame f) = .frame f := by
  obtain ⟨f', encoded, bytes, -⟩ := Instr.encoding_of_frame (decodeFrame_byteCount f)
  rw [decodeFrame_bytes] at bytes
  rw [encoded, Vector.toList_inj.mp bytes]

/-- Settles O9: the operation of an offer has the offer's bytes, and the encoder gives an operation's bytes. -/
theorem decodedOperationsKeepTheirBytes : Obligations.DecodedOperationsKeepTheirBytes := by
  unfold Obligations.DecodedOperationsKeepTheirBytes
  exact ⟨decode_wellFormed, encode_decodeByte, fun _ => encode_decodeFrame⟩

/-! ## Byte lists and their frames (R50, R52) -/

/-- `FRAME_LEN` bytes are the bytes of a frame. -/
theorem Frame.exists_toList {bytes : List Byte} (h : bytes.length = Params.frameLen) : ∃ f : Frame, f.toList = bytes :=
  ⟨⟨bytes.toArray, h⟩, rfl⟩

theorem decodeFrameBytes_of_short {bytes : List Byte} (h : bytes.length < 5) :
    decodeFrameBytes bytes = .error (.partialFrame bytes.length) := by
  have short : (bytes.take Params.frameLen).length ≠ Params.frameLen := by
    rw [List.length_take, Params.frameLen_eq]
    omega
  rw [decodeFrameBytes, Frame.ofList?_of_length_ne short]

theorem decodeFrameBytes_frame_append (f : Frame) (rest : List Byte) :
    decodeFrameBytes (f.toList ++ rest) = .ok (decodeFrame f, rest) := by
  rw [f.eq_bytes]
  exact decodeFrameBytes_frame ..

theorem disassemble_frame_append (f : Frame) (rest : List Byte) :
    disassemble (f.toList ++ rest) = (decodeFrame f :: (disassemble rest).1, (disassemble rest).2) := by
  rw [f.eq_bytes]
  exact disassemble_frame ..

/-- Settles O10: a list of five bytes or more is a frame's bytes and a rest. -/
theorem partialFramesAreRejectedByName : Obligations.PartialFramesAreRejectedByName := by
  unfold Obligations.PartialFramesAreRejectedByName
  refine ⟨fun _ => decodeFrameBytes_of_short, fun bytes long => ?_⟩
  obtain ⟨f, first⟩ := Frame.exists_toList (List.length_take_of_le long)
  have split : f.toList ++ bytes.drop 5 = bytes := first ▸ bytes.take_append_drop 5
  refine ⟨decodeFrame f, bytes.drop 5, ?_, ?_, decodeFrame_byteCount f, decodeFrame_wellFormed f⟩
  · conv_lhs => rw [← split]
    exact decodeFrameBytes_frame_append ..
  · rw [decodeFrame_bytes, split]

/-- A stream that ends before the frame in progress is complete holds no further frame. -/
theorem disassembleFrom_of_short (got bytes : List Byte) (h : (got ++ bytes).length < 5) :
    disassembleFrom got bytes = ([], got ++ bytes) := by
  induction bytes generalizing got with
  | nil => rw [List.append_nil]; rfl
  | cons b bs ih =>
    rw [List.append_cons] at h ⊢
    have incomplete : (got ++ [b]).length ≠ Params.frameLen := by
      rw [List.length_append] at h
      rw [Params.frameLen_eq]
      omega
    rw [disassembleFrom, Frame.ofList?_of_length_ne incomplete]
    exact ih _ h

theorem disassemble_of_short {bytes : List Byte} (h : bytes.length < 5) : disassemble bytes = ([], bytes) :=
  disassembleFrom_of_short [] bytes h

/-- Disassembling keeps the bytes, and leaves what does not fill a window. -/
theorem disassemble_bytes (bytes : List Byte) :
    (disassemble bytes).1.flatMap Instr.bytes ++ (disassemble bytes).2 = bytes ∧
      (disassemble bytes).2.length = bytes.length % 5 := by
  induction bytes using window_induction with
  | short l h =>
    rw [disassemble_of_short h]
    exact ⟨rfl, (Nat.mod_eq_of_lt h).symm⟩
  | window b0 b1 b2 b3 b4 l ih =>
    obtain ⟨kept, left⟩ := ih
    rw [disassemble_frame]
    constructor
    · rw [List.flatMap_cons, decodeFrame_bytes, List.append_assoc, kept]
      rfl
    · rw [left]
      exact (Nat.add_mod_right l.length 5).symm

/-- The bytes of well-formed frames, with an incomplete one after them, disassemble to those frames. -/
theorem disassemble_flatMap_bytes {frames : List Instr} {tail : List Byte}
    (wf : ∀ i ∈ frames, i.byteCount = 5 ∧ i.wellFormed = true) (short : tail.length < 5) :
    disassemble (frames.flatMap Instr.bytes ++ tail) = (frames, tail) := by
  induction frames with
  | nil => exact disassemble_of_short short
  | cons i is ih =>
    obtain ⟨⟨frame, wfi⟩, wfs⟩ := List.forall_mem_cons.mp wf
    obtain ⟨f, -, bytes, decoded⟩ := Instr.encoding_of_frame frame
    rw [List.flatMap_cons, List.append_assoc, bytes, disassemble_frame_append, decoded wfi, ih wfs]

/-- Settles O11: cutting off one frame after another, in both directions. -/
theorem disassemblyIsUnique : Obligations.DisassemblyIsUnique := by
  unfold Obligations.DisassemblyIsUnique
  exact ⟨disassemble_bytes, fun _ _ => disassemble_flatMap_bytes⟩

/-! ## Table words (log entry 12) -/

/-- A 40-bit word is read as the frame of its five bytes, the highest first. -/
theorem decodeTableWord_frame (w : BitVec 40) :
    decodeTableWord 40 w.toNat = some (decodeFrame #v[w.extractLsb' 32 8, w.extractLsb' 24 8, w.extractLsb' 16 8,
      w.extractLsb' 8 8, w.extractLsb' 0 8]) := rfl

/-- A word that is a marker and two coordinates is read as their frame (R45). -/
theorem decodeTableWord_frameBytes (m : Byte) (x y : Coord) :
    decodeTableWord 40 (m ++ (x ++ y)).toNat = some (decodeFrame (frameBytes m x y)) := by
  have marker : (m ++ (x ++ y)).extractLsb' 32 8 = m := BitVec.extractLsb'_append_eq_left
  have coords (start : Nat) (h : start + 8 ≤ 32) :
      (m ++ (x ++ y)).extractLsb' start 8 = (x ++ y).extractLsb' start 8 := BitVec.extractLsb'_append_eq_of_add_le h
  have inX (start : Nat) (h : 16 ≤ start) : (x ++ y).extractLsb' start 8 = x.extractLsb' (start - 16) 8 :=
    BitVec.extractLsb'_append_eq_of_le h
  have inY (start : Nat) (h : start + 8 ≤ 16) : (x ++ y).extractLsb' start 8 = y.extractLsb' start 8 :=
    BitVec.extractLsb'_append_eq_of_add_le h
  rw [decodeTableWord_frame, marker, coords 24 (by decide), coords 16 (by decide), coords 8 (by decide),
    coords 0 (by decide), inX 24 (by decide), inX 16 (by decide), inY 8 (by decide), inY 0 (by decide)]
  rfl

/-- Settles O7: the word's bytes are the frame's, and a marker's frame decodes to its operation. -/
theorem framePatternsDecode : Obligations.FramePatternsDecode := by
  unfold Obligations.FramePatternsDecode
  intro x y
  rw [decodeTableWord_frameBytes, decodeTableWord_frameBytes]
  exact ⟨congrArg some (decodeFrame_press x y), congrArg some (decodeFrame_release x y)⟩

/-- A word that has an instruction is an offer, which is put first and decodes at marker position to the instruction. -/
theorem Machine.State.withFetchWord_of_decode {s : State} {nbits w : Nat} {i : Instr}
    (word : decodeTableWord nbits w = some i) :
    ∃ o, s.withFetchWord nbits w = { s with source := o :: s.source } ∧ decode 0 o = i := by
  obtain ⟨o, offered, decoded⟩ := Option.map_eq_some_iff.mp word
  exact ⟨o, by rw [State.withFetchWord, State.placeTableWord, offered], decoded⟩

/-- Settles O14: the offer placed is the next fetched, and fetching it leaves the state as it was. -/
theorem placedTableWordIsWhatStepRuns : Obligations.PlacedTableWordIsWhatStepRuns := by
  unfold Obligations.PlacedTableWordIsWhatStepRuns
  intro s nbits w i marker word
  obtain ⟨o, placed, rfl⟩ := State.withFetchWord_of_decode (s := s) word
  rw [placed, step_of_source_cons rfl]
  exact congrArg (exec · s) (congrArg (decode · o) marker)

/-- Settles O3: closed words, bytes and samples, evaluated. -/
theorem specWordsDecode : Obligations.SpecWordsDecode := by
  unfold Obligations.SpecWordsDecode
  decide

/-- Settles O4: the rows of marker position and the four payload positions. -/
theorem operationMapRows : Obligations.OperationMapRows := by
  unfold Obligations.OperationMapRows
  exact fun b => ⟨decodeByte_zero_eq_markP_iff.mpr, decodeByte_zero_eq_markR_iff.mpr, decodeByte_zero_of_other,
    rfl, rfl, rfl, rfl⟩

/-! ## Assembled programs (R52) -/

/-- A step in which reset is requested. -/
theorem Machine.step_of_rst {s : State} {rest : List Offer} (h : s.source = .rst :: rest) :
    step s = exec .reset { s with source := rest } := step_of_source_cons h

/-- A step in which nothing is offered. -/
theorem Machine.step_of_idle {s : State} {rest : List Offer} (h : s.source = .idle :: rest) :
    step s = exec .hold { s with source := rest } := step_of_source_cons h

/-- A line of R52 is bytes, offered one by one and fed, or one of the two control lines. -/
theorem Directive.bytes_or_control (l : Directive) :
    (∃ bytes : List Byte, l.assemble = bytes.map Offer.byte ∧ ∀ s, l.exec s = .next (s.feedBytes bytes)) ∨
      l = .reset ∨ l = .hold := by
  cases l with
  | press x y => exact .inl ⟨_, rfl, fun _ => rfl⟩
  | release x y => exact .inl ⟨_, rfl, fun _ => rfl⟩
  | junk m b1 b2 b3 b4 => exact .inl ⟨_, rfl, fun _ => rfl⟩
  | byte b => exact .inl ⟨[b], rfl, fun s => exec_decodeByte s _ b⟩
  | reset => exact .inr (.inl rfl)
  | hold => exact .inr (.inr rfl)

/-- What a line does to a state `s` is one and the same state `t`, both executed and assembled and run, whatever is
still to come after it. -/
theorem Directive.exec_and_run (l : Directive) (s : State) :
    ∃ t : State, ∀ rest : List Offer,
      l.exec { s with source := rest } = .next { t with source := rest } ∧
      Sys2Proof.core.run l.assemble.length { s with source := l.assemble ++ rest } =
        .next { t with source := rest } := by
  obtain ⟨bytes, assembled, executed⟩ | rfl | rfl := l.bytes_or_control
  · refine ⟨s.feedBytes bytes, fun rest => ?_⟩
    have fed := s.feedBytes_with_source bytes rest
    constructor
    · rw [executed, fed]
    · rw [assembled, List.length_map, run_of_bytes bytes rfl, ← fed]
  · exact ⟨{ s.commit (⟨drawnPayload s.draws, 0, .none⟩, .silent) with draws := s.draws + 1 }, fun _ =>
      ⟨exec_reset _, run_succ_of_step ((step_of_rst rfl).trans (exec_reset _))⟩⟩
  · exact ⟨s.commit (s.dec, .silent), fun _ =>
      ⟨exec_hold _, run_succ_of_step ((step_of_idle rfl).trans (exec_hold _))⟩⟩

theorem assemble_cons (l : Directive) (lines : List Directive) :
    assemble (l :: lines) = l.assemble ++ assemble lines := List.flatMap_cons

/-- A program assembled and run does what its lines do in order, whatever is offered after it. -/
theorem Machine.run_assemble (program : List Directive) (s : State) (rest : List Offer) :
    Sys2Proof.core.run (assemble program).length { s with source := assemble program ++ rest } =
      runProgram program { s with source := rest } := by
  induction program generalizing s with
  | nil => rfl
  | cons l lines ih =>
    obtain ⟨t, effect⟩ := l.exec_and_run s
    obtain ⟨executed, -⟩ := effect rest
    obtain ⟨-, ran⟩ := effect (assemble lines ++ rest)
    rw [assemble_cons, List.length_append, List.append_assoc, run_add ran, ih t, runProgram, executed]

/-- Settles O54: the state is the program's assembly put in front of what comes after it. -/
theorem assembledProgramRunsItsDirectives : Obligations.AssembledProgramRunsItsDirectives := by
  unfold Obligations.AssembledProgramRunsItsDirectives
  rintro program ⟨dec, _, sink, draws⟩ rest rfl
  exact run_assemble program ⟨dec, rest, sink, draws⟩ rest

/-! ## The coordinates of an event (R47) -/

/-- The output of the byte that completes an accepted window. -/
theorem Machine.Decoder.feed_out_of_completed {d : Decoder} (last : d.writeIndex = 4) (latched : d.touchKind ≠ .none)
    (b : Byte) :
    (d.feed b).2 =
      ⟨some ⟨assembleCoord d.payload.xh d.payload.xl, assembleCoord d.payload.yh b, d.touchKind == .pressed⟩,
        false⟩ := by
  have evt := d.feed_evt b
  rw [if_pos ⟨last, latched⟩] at evt
  have diag : (d.feed b).2.diag = false := by
    rw [d.feed_diag, last]
    rfl
  exact congrArg₂ StepOut.mk evt diag

/-- Settles O35: the event of the completing byte, its coordinates as numbers. -/
theorem coordinatesAreBigEndianAndUnclamped : Obligations.CoordinatesAreBigEndianAndUnclamped := by
  unfold Obligations.CoordinatesAreBigEndianAndUnclamped
  intro b s last latched
  have out := Decoder.feed_out_of_completed last latched b
  exact ⟨_, _, execPayYl_eq b s, by rw [s.feedByte_sink, out], assembleCoord_toNat .., assembleCoord_toNat ..,
    beq_iff_eq⟩

end Sys2Proof

/-!
PROOFS. The byte operations and HOLD (spec/40_byte_operations.md): each operation at its own position, the table of
R74, HOLD steps left out of a run (R69), and the two settings of the named flag (R75).
-/

namespace Sys2Proof.Machine

/-! ## Every step completes and adds to what was output (R60, R90) -/

@[simp] theorem State.fetch_sink (s : State) : s.fetch.2.sink = s.sink := by
  unfold State.fetch
  split <;> rfl

/-- A step reaches a state and keeps the outputs delivered before it. -/
theorem step_appends_outputs (s : State) : ∃ t outs, step s = .next t ∧ t.sink = s.sink ++ outs := by
  obtain ⟨t, outs, executed, sink, -⟩ := outputsAreAppendedInStepOrder s.fetch.1 s.fetch.2
  exact ⟨t, outs, executed, by rw [sink, State.fetch_sink]⟩

/-- So does a run of any length. -/
theorem run_appends_outputs (n : Nat) (s : State) :
    ∃ t outs, Sys2Proof.core.run n s = .next t ∧ t.sink = s.sink ++ outs := by
  induction n generalizing s with
  | zero => exact ⟨s, [], rfl, s.sink.append_nil.symm⟩
  | succ n ih =>
    obtain ⟨s1, outs1, stepped, sink1⟩ := step_appends_outputs s
    obtain ⟨t, outs, ran, sink⟩ := ih s1
    rw [run_succ_of_step stepped]
    exact ⟨t, outs1 ++ outs, ran, by rw [sink, sink1, List.append_assoc]⟩

/-! ## HOLD steps left out of a run (R69) -/

/-- The outputs that are an event or a `diag` pulse. -/
def audible (outs : List StepOut) : List StepOut := outs.filter fun o => decide (o ≠ ⟨none, false⟩)

theorem audible_append (as bs : List StepOut) : audible (as ++ bs) = audible as ++ audible bs := List.filter_append ..

/-- Two machines with the same decoder and draws that have output the same events and `diag` pulses. What they are still
offered may differ. -/
def State.SameHistory (s u : State) : Prop :=
  s.dec = u.dec ∧ s.draws = u.draws ∧ audible s.sink = audible u.sink

/-- The same offer keeps the histories the same, whatever each machine is offered after it. -/
theorem State.SameHistory.step {s u : State} (same : s.SameHistory u) (o : Offer) (restS restU : List Offer) :
    ∃ s' u' : State, Machine.step { s with source := o :: restS } = .next { s' with source := restS } ∧
      Machine.step { u with source := o :: restU } = .next { u' with source := restU } ∧ s'.SameHistory u' := by
  obtain ⟨dec, _, sinkS, draws⟩ := s
  obtain ⟨_, _, sinkU, _⟩ := u
  obtain ⟨rfl, rfl, heard⟩ := same
  obtain ⟨d, n, outs, executedS, executedU⟩ := operationsIgnoreTheEnvironmentsRecords
    (decode dec.writeIndex o) ⟨dec, restS, sinkS, draws⟩ ⟨dec, restU, sinkU, draws⟩ rfl rfl
  refine ⟨⟨d, restS, sinkS ++ outs, n⟩, ⟨d, restU, sinkU ++ outs, n⟩,
    (step_of_source_cons rfl).trans executedS, (step_of_source_cons rfl).trans executedU, rfl, rfl, ?_⟩
  show audible (sinkS ++ outs) = audible (sinkU ++ outs)
  rw [audible_append, audible_append, heard]

/-- An idle offer selects HOLD. -/
theorem decode_of_isIdle {o : Offer} (idle : o.isIdle = true) (wi0 : WriteIndex) : decode wi0 o = .hold := by
  match o with
  | .sample ⟨false, false, _⟩ => rfl

/-- A HOLD step of one of two machines keeps their histories the same. -/
theorem State.SameHistory.hold {s u : State} (same : s.SameHistory u) :
    (s.commit (s.dec, .silent)).SameHistory u := by
  obtain ⟨dec, draws, heard⟩ := same
  refine ⟨dec, draws, ?_⟩
  rw [State.commit_sink, audible_append, heard]
  exact List.append_nil _

/-- The offers of a run without the idle ones. -/
def withoutIdle (offers : List Offer) : List Offer := offers.filter fun o => !o.isIdle

/-- A run over offers and a run over those that are not idle keep the histories the same. -/
theorem State.SameHistory.run {s u : State} (same : s.SameHistory u) (offers : List Offer) :
    ∃ t v, Sys2Proof.core.run offers.length { s with source := offers } = .next t ∧
      Sys2Proof.core.run (withoutIdle offers).length { u with source := withoutIdle offers } = .next v ∧
      t.SameHistory v := by
  induction offers generalizing s u with
  | nil => exact ⟨_, _, rfl, rfl, same⟩
  | cons o rest ih =>
    by_cases idle : o.isIdle = true
    · have kept : withoutIdle (o :: rest) = withoutIdle rest := List.filter_cons_of_neg (by simp [idle])
      have stepped : Machine.step { s with source := o :: rest } =
          .next { s.commit (s.dec, .silent) with source := rest } := by
        rw [step_of_source_cons rfl, decode_of_isIdle idle]
        rfl
      rw [kept, List.length_cons, run_succ_of_step stepped]
      exact ih same.hold
    · have kept : withoutIdle (o :: rest) = o :: withoutIdle rest := List.filter_cons_of_pos (by simp [idle])
      obtain ⟨s', u', stepS, stepU, same'⟩ := same.step o rest (withoutIdle rest)
      rw [kept, List.length_cons, List.length_cons, run_succ_of_step stepS, run_succ_of_step stepU]
      exact ih same'

/-- Settles O49: both runs start with the same history, and each only adds to its outputs. -/
theorem holdStepsAreInvisible : Obligations.HoldStepsAreInvisible := by
  unfold Obligations.HoldStepsAreInvisible
  intro s offers
  have same : s.SameHistory s := ⟨rfl, rfl, rfl⟩
  obtain ⟨t, u, ranAll, ranKept, dec, draws, heard⟩ := same.run offers
  obtain ⟨t', outs, ranAll', sink⟩ := run_appends_outputs offers.length { s with source := offers }
  obtain ⟨u', outs', ranKept', sink'⟩ :=
    run_appends_outputs (withoutIdle offers).length { s with source := withoutIdle offers }
  cases ranAll.symm.trans ranAll'
  cases ranKept.symm.trans ranKept'
  rw [sink, sink', audible_append, audible_append] at heard
  exact ⟨t, u, outs, outs', ranAll, ranKept, dec, draws, sink, sink', List.append_cancel_left heard⟩

/-! ## The two settings of `RETAIN_KIND_ON_BAD_MARKER` (R75) -/

section Retain
variable {d : Decoder} {b : Byte}

/-- At a payload position no setting is read. -/
theorem Decoder.feedWith_of_payload_position (h : d.writeIndex ≠ 0) (retain : Bool) :
    d.feedWith retain b = d.feed b := by
  simp only [Decoder.feed, Decoder.feedWith, if_neg h]

/-- A marker is classified without reading the setting. -/
theorem Decoder.feedWith_of_marker (h : Params.isMarker b = true) (retain : Bool) :
    d.feedWith retain b = d.feed b := by
  have classified : d.classify retain b = d.classify Params.retainKindOnBadMarker b := by
    obtain rfl | rfl := Params.isMarker_iff.mp h <;> rfl
  simp only [Decoder.feed, Decoder.feedWith, classified]

/-- A bad marker is treated alike by both settings exactly if there is no latch to clear. -/
theorem Decoder.feedWith_bad_marker_agree_iff (h : d.writeIndex = 0) (bad : Params.isMarker b = false) :
    d.feedWith true b = d.feedWith false b ↔ d.touchKind = .none := by
  rw [← Decoder.markBad_eq_feedWith true h bad, ← Decoder.markBad_eq_feedWith false h bad]
  simp [Decoder.markBad]

/-- The settings agree on one byte unless it is a bad marker met with a touch latched (R75). -/
theorem Decoder.feedWith_agree_iff :
    d.feedWith true b = d.feedWith false b ↔
      (d.writeIndex = 0 → Params.isMarker b = false → d.touchKind = .none) := by
  by_cases marker : d.writeIndex = 0
  · cases bad : Params.isMarker b with
    | false => simp [Decoder.feedWith_bad_marker_agree_iff marker bad, marker]
    | true => simp [Decoder.feedWith_of_marker bad]
  · simp [Decoder.feedWith_of_payload_position marker, marker]

/-- With the flag false a bad marker at marker position clears the latch (R75). -/
theorem Decoder.feedWith_false_of_bad_marker (h : d.writeIndex = 0) (bad : Params.isMarker b = false) :
    d.feedWith false b = ({ d with writeIndex := 1, touchKind := .none }, ⟨none, true⟩) :=
  (Decoder.markBad_eq_feedWith false h bad).symm

end Retain

/-- Settles O51: the settings disagree exactly where `feedWith_agree_iff` fails. -/
theorem retentionFlagMattersOnlyAtUnreachableStarts : Obligations.RetentionFlagMattersOnlyAtUnreachableStarts := by
  unfold Obligations.RetentionFlagMattersOnlyAtUnreachableStarts
  refine ⟨fun _ _ => rfl, fun d b marker press release => ?_, fun d b => ?_⟩
  · exact Decoder.feedWith_false_of_bad_marker marker (Params.isMarker_eq_false_iff.mpr ⟨press, release⟩)
  · rw [Ne, Decoder.feedWith_agree_iff, Params.isMarker_eq_false_iff]
    tauto

/-- Settles O52: the marker invariant rules the disagreement out, and every byte restores it. -/
theorem retentionFlagIsInvisibleFromReset : Obligations.RetentionFlagIsInvisibleFromReset := by
  unfold Obligations.RetentionFlagIsInvisibleFromReset
  intro d bytes inv
  induction bytes generalizing d with
  | nil => rfl
  | cons b bs ih =>
    have agree : d.feedWith true b = d.feedWith false b := Decoder.feedWith_agree_iff.mpr fun marker _ => inv marker
    have inv' : (d.feedWith false b).1.MarkerInvariant := agree ▸ d.feed_markerInvariant b
    simp only [Decoder.feedAllWith, agree, ih _ inv']

/-! ## Totality and `feed` (R60) -/

/-- Settles O15: O38 answers a state for every operation, and `run_appends_outputs` for every run. -/
theorem nothingEverStops : Obligations.NothingEverStops := by
  unfold Obligations.NothingEverStops
  refine ⟨fun s => ?_, fun i s => ?_, fun n s => ?_⟩
  · obtain ⟨t, _, stepped, -⟩ := step_appends_outputs s
    exact ⟨t, stepped⟩
  · obtain ⟨t, _, executed, -⟩ := outputsAreAppendedInStepOrder i s
    exact ⟨t, executed⟩
  · obtain ⟨t, _, ran, -⟩ := run_appends_outputs n s
    exact ⟨t, ran⟩

/-- Settles O30: the operation a byte selects feeds it. -/
theorem feedIsTheSevenOperations : Obligations.FeedIsTheSevenOperations := by
  unfold Obligations.FeedIsTheSevenOperations
  exact fun s b => exec_decodeByte s s.dec.writeIndex b

/-! ## The transition table (R74) -/

/-- The operation column of the table is the operation map. -/
theorem tableOperation_classOf (wi : WriteIndex) (b : Byte) : tableOperation wi (classOf b) b = decodeByte wi b := by
  obtain rfl | rfl | rfl | rfl | rfl := position_cases wi
  · rw [decodeByte_zero]
    unfold classOf
    split_ifs <;> rfl
  all_goals rfl

/-- The table, column by column: the counter rule, the latch, the one store, the one event and `diag`. -/
theorem transitionTable_eq (wi : WriteIndex) (k : TouchKind) (c : ByteClass) :
    transitionTable wi k c =
      { writeIndex := nextIndex wi
        touchKind :=
          if wi = 4 then .none
          else if wi = 0 then (if c = .press then .pressed else if c = .release then .released else k)
          else k
        stored := if wi ≠ 0 ∧ k ≠ .none then some (payloadIndex wi) else none
        event := if wi = 4 ∧ k ≠ .none then some (k == .pressed) else none
        diag := wi == 0 && c == .other } := by
  cases k <;> cases c <;> revert wi <;> decide

section ByteClass
variable {b : Byte}

theorem classOf_eq_press_iff : classOf b = .press ↔ b = 0xC8 := by
  obtain ⟨rfl, cls⟩ | ⟨rfl, -⟩ | ⟨press, -, cls⟩ := classOf_cases b
  · exact iff_of_true cls rfl
  · exact iff_of_false (by decide) (by decide)
  · exact iff_of_false (by simp [cls]) press

theorem classOf_eq_release_iff : classOf b = .release ↔ b = 0x88 := by
  obtain ⟨rfl, -⟩ | ⟨rfl, cls⟩ | ⟨-, release, cls⟩ := classOf_cases b
  · exact iff_of_false (by decide) (by decide)
  · exact iff_of_true cls rfl
  · exact iff_of_false (by simp [cls]) release

/-- The third class is the unrecognized bytes (R46). -/
theorem classOf_beq_other : (classOf b == .other) = !Params.isMarker b := by
  obtain ⟨rfl, -⟩ | ⟨rfl, -⟩ | ⟨press, release, cls⟩ := classOf_cases b
  · rfl
  · rfl
  · rw [cls, Params.isMarker_eq_false_iff.mpr ⟨press, release⟩]
    rfl

end ByteClass

section Row
variable (d : Decoder) (b : Byte)

/-- The table's row for a byte fed to a decoder. -/
def Decoder.tableRow : TableRow := transitionTable d.writeIndex d.touchKind (classOf b)

theorem Decoder.feed_writeIndex_eq_row : (d.feed b).1.writeIndex = (d.tableRow b).writeIndex := by
  rw [Decoder.feed_writeIndex, Decoder.tableRow, transitionTable_eq]

theorem Decoder.feed_touchKind_eq_row : (d.feed b).1.touchKind = (d.tableRow b).touchKind := by
  simp only [Decoder.feed_touchKind, Decoder.tableRow, transitionTable_eq, classOf_eq_press_iff,
    classOf_eq_release_iff]

theorem Decoder.feed_diag_eq_row : (d.feed b).2.diag = (d.tableRow b).diag := by
  rw [Decoder.feed_diag, Decoder.tableRow, transitionTable_eq, classOf_beq_other, diagOf]
  rfl

theorem Decoder.feed_payload_eq_row (j : Fin Params.payloadLen) :
    (d.feed b).1.payload.get j = if (d.tableRow b).stored = some j then b else d.payload.get j := by
  rw [Decoder.feed_payload, Decoder.tableRow, transitionTable_eq]
  by_cases stores : d.writeIndex ≠ 0 ∧ d.touchKind ≠ .none
  · simp only [if_pos stores, Payload.get_set, Option.some.injEq]
  · simp only [if_neg stores, reduceCtorEq, if_false]

theorem Decoder.feed_evt_eq_row :
    (d.feed b).2.evt = (d.tableRow b).event.map fun pressed =>
      ⟨d.payload.xh ++ d.payload.xl, d.payload.yh ++ b, pressed⟩ := by
  rw [Decoder.feed_evt, Decoder.tableRow, transitionTable_eq]
  by_cases emits : d.writeIndex = 4 ∧ d.touchKind ≠ .none
  · rw [if_pos emits, if_pos emits, assembleCoord_eq_append, assembleCoord_eq_append]
    rfl
  · rw [if_neg emits, if_neg emits]
    rfl

end Row

/-- Settles O31: the byte is fed, and each column of the row is what `feed` does. -/
theorem byteStepsFollowTheTransitionTable : Obligations.ByteStepsFollowTheTransitionTable := by
  unfold Obligations.ByteStepsFollowTheTransitionTable
  intro s b rest offered
  exact ⟨_, (s.dec.feed b).2, step_of_byte offered, rfl, rfl, rfl, (tableOperation_classOf ..).symm,
    s.dec.feed_writeIndex_eq_row b, s.dec.feed_touchKind_eq_row b, s.dec.feed_diag_eq_row b,
    s.dec.feed_payload_eq_row b, s.dec.feed_evt_eq_row b⟩

/-! ## Events (R67, R85) -/

/-- The byte that emits wraps the counter, clears the latch and has no `diag`. -/
theorem Decoder.feed_of_emits {d : Decoder} {b : Byte} (emits : (d.feed b).2.evt ≠ none) :
    (d.feed b).1.writeIndex = 0 ∧ (d.feed b).1.touchKind = .none ∧ (d.feed b).2.diag = false := by
  obtain ⟨last, latched⟩ := (d.feed_evt_ne_none b).mp emits
  refine ⟨?_, ?_, ?_⟩
  · rw [Decoder.feed_writeIndex, nextIndex_eq_zero, last]
  · rw [Decoder.feed_touchKind, if_pos last]
  · rw [Decoder.feed_out_of_completed last latched]

/-- Settles O34: RESET and HOLD are silent, and a byte emits as `feed` does. -/
theorem onlyTheCompletingStepEmits : Obligations.OnlyTheCompletingStepEmits := by
  unfold Obligations.OnlyTheCompletingStepEmits
  intro s p rest offered
  have silent : ¬ StepOut.silent.evt ≠ none := fun emits => emits rfl
  obtain ⟨rst, stepped⟩ | ⟨rst, valid, stepped⟩ | ⟨rst, valid, stepped⟩ := step_of_sample offered
  · exact ⟨_, .silent, stepped, rfl, iff_of_false silent (by simp [rst]), fun emits => absurd emits silent⟩
  · exact ⟨_, .silent, stepped, rfl, iff_of_false silent (by simp [valid]), fun emits => absurd emits silent⟩
  · refine ⟨_, (s.dec.feed p.inByte).2, stepped, rfl, ?_, Decoder.feed_of_emits⟩
    rw [Decoder.feed_evt_ne_none]
    simp [rst, valid]

/-! ## Each operation at its own position (R61 to R67) -/

section OwnPosition
variable {s : State}

theorem exec_markP_at_marker (h : s.dec.writeIndex = 0) : exec .markP s = .next (s.commit s.dec.markP) := by
  rw [exec, execMarkP, if_pos h]

theorem exec_markR_at_marker (h : s.dec.writeIndex = 0) : exec .markR s = .next (s.commit s.dec.markR) := by
  rw [exec, execMarkR, if_pos h]

theorem exec_markBad_at_marker {b : Byte} (h : s.dec.writeIndex = 0) (bad : Params.isMarker b = false) :
    exec (.markBad b) s = .next (s.commit (s.dec.markBad true)) := by
  rw [exec, execMarkBad, if_pos ⟨h, bad⟩]
  rfl

theorem exec_payXh_at_one (h : s.dec.writeIndex = 1) (b : Byte) :
    exec (.payXh b) s = .next (s.commit (s.dec.payXh b)) := by
  rw [exec, execPayXh, if_pos h]

theorem exec_payXl_at_two (h : s.dec.writeIndex = 2) (b : Byte) :
    exec (.payXl b) s = .next (s.commit (s.dec.payXl b)) := by
  rw [exec, execPayXl, if_pos h]

theorem exec_payYh_at_three (h : s.dec.writeIndex = 3) (b : Byte) :
    exec (.payYh b) s = .next (s.commit (s.dec.payYh b)) := by
  rw [exec, execPayYh, if_pos h]

theorem exec_payYl_at_four (h : s.dec.writeIndex = 4) (b : Byte) :
    exec (.payYl b) s = .next (s.commit (s.dec.payYl b)) := by
  rw [exec, execPayYl, if_pos h]

end OwnPosition

/-- A choice by a latched touch is one by its two values (R13). -/
theorem TouchKind.ite_accepting {α : Type} (k : TouchKind) (x y : α) :
    (if k.accepting then x else y) = if k = .pressed ∨ k = .released then x else y := by
  simp only [TouchKind.accepting_iff]

/-- Settles O16. -/
theorem markPLatchesPressed : Obligations.MarkPLatchesPressed := by
  unfold Obligations.MarkPLatchesPressed
  exact fun _ => exec_markP_at_marker

/-- Settles O17. -/
theorem markRLatchesReleased : Obligations.MarkRLatchesReleased := by
  unfold Obligations.MarkRLatchesReleased
  exact fun _ => exec_markR_at_marker

/-- Settles O18: a byte that is neither literal is no marker. -/
theorem markBadOpensAWindowAndKeepsTheLatch : Obligations.MarkBadOpensAWindowAndKeepsTheLatch := by
  unfold Obligations.MarkBadOpensAWindowAndKeepsTheLatch
  intro b s marker press release
  exact exec_markBad_at_marker marker (Params.isMarker_eq_false_iff.mpr ⟨press, release⟩)

/-- Settles O19: a byte is stored under a latched touch. -/
theorem payXhStoresRegisterZero : Obligations.PayXhStoresRegisterZero := by
  unfold Obligations.PayXhStoresRegisterZero
  intro b s position
  rw [exec_payXh_at_one position, Decoder.payXh, TouchKind.ite_accepting]
  rfl

/-- Settles O20: a byte is stored under a latched touch. -/
theorem payXlStoresRegisterOne : Obligations.PayXlStoresRegisterOne := by
  unfold Obligations.PayXlStoresRegisterOne
  intro b s position
  rw [exec_payXl_at_two position, Decoder.payXl, TouchKind.ite_accepting]
  rfl

/-- Settles O21: a byte is stored under a latched touch. -/
theorem payYhStoresRegisterTwo : Obligations.PayYhStoresRegisterTwo := by
  unfold Obligations.PayYhStoresRegisterTwo
  intro b s position
  rw [exec_payYh_at_three position, Decoder.payYh, TouchKind.ite_accepting]
  rfl

/-- Settles O22: the two branches of PAY_YL, the coordinates of the first as concatenations (R47). -/
theorem payYlCompletesTheWindow : Obligations.PayYlCompletesTheWindow := by
  unfold Obligations.PayYlCompletesTheWindow
  intro b s position
  rw [exec_payYl_at_four position, Decoder.payYl]
  constructor
  · intro latched
    rw [if_pos (TouchKind.accepting_iff.mpr latched), assembleCoord_eq_append, assembleCoord_eq_append]
    rfl
  · intro noTouch
    rw [if_neg (by simp [noTouch])]
    rfl

/-- Settles O23: without reset and byte the ports select HOLD, whatever `in_byte` is. -/
theorem holdChangesNothing : Obligations.HoldChangesNothing := by
  unfold Obligations.HoldChangesNothing
  refine ⟨exec_hold, fun s b rest offered => ?_⟩
  rw [step_of_source_cons offered, decode_of_isIdle rfl]

end Sys2Proof.Machine

/-!
PROOFS. Frames and streams (spec/41_frame_operations.md): what five bytes do from marker position (R80 to R83), the
closed form of every stream (R84), the spacing of events (R86) and the persistence of an offset (R87).
-/

namespace Sys2Proof.Machine

/-! ## Runs and frame-level operations, as a function of the decoder alone -/

/-- Bytes fed to the decoder of this hardware: its end state and its outputs. -/
abbrev Decoder.feedAll (d : Decoder) (bytes : List Byte) : Decoder × List StepOut :=
  d.feedAllWith Params.retainKindOnBadMarker bytes

theorem Decoder.feedAll_cons (d : Decoder) (b : Byte) (bs : List Byte) :
    d.feedAll (b :: bs) = (((d.feed b).1.feedAll bs).1, (d.feed b).2 :: ((d.feed b).1.feedAll bs).2) := rfl

/-- A run over offered bytes: what the decoder makes of them, and nothing else of the environment's. -/
theorem run_of_bytes_eq_feedAll {s : State} {rest : List Offer} {bytes : List Byte}
    (offered : s.source = bytes.map Offer.byte ++ rest) :
    Sys2Proof.core.run bytes.length s =
      .next ⟨(s.dec.feedAll bytes).1, rest, s.sink ++ (s.dec.feedAll bytes).2, s.draws⟩ := by
  rw [run_of_bytes bytes offered, State.feedBytes_eq]

/-- A frame-level operation: what the decoder makes of its bytes. -/
theorem exec_of_frame_eq_feedAll {i : Instr} (frame : i.byteCount = 5) (s : State) :
    exec i s = .next { s with
      dec := (s.dec.feedAll i.bytes).1
      sink := s.sink ++ (s.dec.feedAll i.bytes).2 } := by
  rw [exec_of_frame s frame, State.feedBytes_eq]

/-- Settles O53: five byte steps and the operation both feed the operation's bytes. -/
theorem frameOperationIsFiveByteSteps : Obligations.FrameOperationIsFiveByteSteps := by
  unfold Obligations.FrameOperationIsFiveByteSteps
  intro i s rest frame offered
  have ran := run_of_bytes i.bytes offered
  rw [i.length_bytes, frame] at ran
  exact ran.trans (exec_of_frame _ frame).symm

/-! ## The marker byte of a window -/

/-- The latch after the byte `b` at marker position, where it was `k` (R61 to R63). -/
def TouchKind.classified (k : TouchKind) (b : Byte) : TouchKind :=
  if b = 0xC8 then .pressed else if b = 0x88 then .released else k

/-- The markers of the claims are those the decoder compares with (R46). -/
theorem markerValue_eq_isMarker (b : Byte) : markerValue b = Params.isMarker b := rfl

theorem markerValue_iff {b : Byte} : markerValue b = true ↔ b = 0xC8 ∨ b = 0x88 := by
  rw [markerValue_eq_isMarker, Params.isMarker_iff]

theorem markerValue_of_other {b : Byte} (h : b ≠ 0xC8) (h' : b ≠ 0x88) : markerValue b = false := by
  rw [markerValue_eq_isMarker, Params.isMarker_eq_false_iff]
  exact ⟨h, h'⟩

theorem TouchKind.classified_of_other {b : Byte} (h : b ≠ 0xC8) (h' : b ≠ 0x88) (k : TouchKind) :
    k.classified b = k := by
  rw [TouchKind.classified, if_neg h, if_neg h']

/-- From the latch None, a byte opens an accepted window exactly if it is a marker (R83). -/
theorem TouchKind.classified_none_accepting (b : Byte) :
    (TouchKind.none.classified b).accepting = markerValue b := by
  obtain ⟨rfl, -⟩ | ⟨rfl, -⟩ | ⟨press, release, -⟩ := classOf_cases b
  · rfl
  · rfl
  · rw [TouchKind.classified_of_other press release, markerValue_of_other press release, TouchKind.accepting_none]

theorem TouchKind.classified_none_beq_pressed (b : Byte) :
    (TouchKind.none.classified b == .pressed) = (b == 0xC8) := by
  obtain ⟨rfl, -⟩ | ⟨rfl, -⟩ | ⟨press, release, -⟩ := classOf_cases b
  · rfl
  · rfl
  · rw [TouchKind.classified_of_other press release, beq_eq_false_iff_ne.mpr press]
    rfl

section Window
variable {d : Decoder} (b0 b1 b2 b3 b4 : Byte)

/-- The step at marker position, whatever the byte (R61 to R63). -/
theorem Decoder.feed_at_marker (marker : d.writeIndex = 0) :
    d.feed b0 = ({ d with writeIndex := 1, touchKind := d.touchKind.classified b0 }, ⟨none, !markerValue b0⟩) := by
  obtain ⟨rfl, -⟩ | ⟨rfl, -⟩ | ⟨press, release, -⟩ := classOf_cases b0
  · exact (Decoder.markP_eq_feed marker).symm
  · exact (Decoder.markR_eq_feed marker).symm
  · have other : Params.isMarker b0 = false := Params.isMarker_eq_false_iff.mpr ⟨press, release⟩
    rw [TouchKind.classified_of_other press release, markerValue_of_other press release]
    exact (Decoder.markBad_eq_feedWith true marker other).symm

/-! ## The four payload bytes of a window -/

/-- The four payload bytes, as the four operations they select (R64 to R67). -/
theorem Decoder.feedAll_payload (first : d.writeIndex = 1) :
    d.feedAll [b1, b2, b3, b4] =
      (let d1 := (d.payXh b1).1
       let d2 := (d1.payXl b2).1
       let d3 := (d2.payYh b3).1
       ((d3.payYl b4).1, [.silent, .silent, .silent, (d3.payYl b4).2])) := by
  rw [Decoder.feedAll_cons, ← Decoder.payXh_eq_feed first, Decoder.feedAll_cons, ← Decoder.payXl_eq_feed rfl,
    Decoder.feedAll_cons, ← Decoder.payYh_eq_feed rfl, Decoder.feedAll_cons, ← Decoder.payYl_eq_feed rfl]
  rfl

/-! ## Whole windows (R83) -/

/-- A window whose marker byte leaves a touch latched: its payload is stored, its event emitted, the latch cleared. -/
theorem Decoder.feedAll_accepted_window (marker : d.writeIndex = 0)
    (accepted : (d.touchKind.classified b0).accepting = true) :
    d.feedAll [b0, b1, b2, b3, b4] =
      (⟨#v[b1, b2, b3, b4], 0, .none⟩,
        [⟨none, !markerValue b0⟩, .silent, .silent, .silent,
          ⟨some ⟨b1 ++ b2, b3 ++ b4, d.touchKind.classified b0 == .pressed⟩, false⟩]) := by
  rw [Decoder.feedAll_cons, Decoder.feed_at_marker b0 marker, Decoder.feedAll_payload _ _ _ _ rfl]
  simp [Decoder.payXh, Decoder.payXl, Decoder.payYh, Decoder.payYl, accepted, assembleCoord_eq_append]

/-- A window whose marker byte leaves no touch latched leaves the decoder as it was (R82, D12). -/
theorem Decoder.feedAll_discarded_window (marker : d.writeIndex = 0) (noTouch : d.touchKind = .none)
    (discarded : markerValue b0 = false) :
    d.feedAll [b0, b1, b2, b3, b4] = (d, [⟨none, true⟩, .silent, .silent, .silent, .silent]) := by
  obtain ⟨p, _, _⟩ := d
  subst marker noTouch
  have unaccepted := TouchKind.classified_none_accepting b0
  rw [discarded] at unaccepted
  rw [Decoder.feedAll_cons, Decoder.feed_at_marker b0 rfl, Decoder.feedAll_payload _ _ _ _ rfl]
  simp [Decoder.payXh, Decoder.payXl, Decoder.payYh, Decoder.payYl, discarded,
    TouchKind.accepting_eq_false.mp unaccepted]

/-- The outputs of a window met with no touch latched (R83). -/
def windowOuts : List StepOut :=
  [⟨none, !markerValue b0⟩, .silent, .silent, .silent,
    ⟨if markerValue b0 then some ⟨b1 ++ b2, b3 ++ b4, b0 == 0xC8⟩ else none, false⟩]

/-- The window law: from `(0, None)` back to `(0, None)`, with the window's outputs. -/
theorem Decoder.feedAll_window (marker : d.writeIndex = 0) (noTouch : d.touchKind = .none) :
    (d.feedAll [b0, b1, b2, b3, b4]).1.SameControl d ∧
      (d.feedAll [b0, b1, b2, b3, b4]).2 = windowOuts b0 b1 b2 b3 b4 := by
  cases valid : markerValue b0 with
  | false =>
    rw [Decoder.feedAll_discarded_window b0 b1 b2 b3 b4 marker noTouch valid, windowOuts, valid]
    exact ⟨⟨rfl, rfl⟩, rfl⟩
  | true =>
    have accepted : (d.touchKind.classified b0).accepting = true := by
      rw [noTouch, TouchKind.classified_none_accepting, valid]
    rw [Decoder.feedAll_accepted_window b0 b1 b2 b3 b4 marker accepted, windowOuts, valid, noTouch,
      TouchKind.classified_none_beq_pressed]
    exact ⟨⟨marker.symm, noTouch.symm⟩, rfl⟩

end Window

/-- Settles O44: the run feeds the five bytes, which are a window of `Decoder.feedAll_window`. -/
theorem windowLaw : Obligations.WindowLaw := by
  unfold Obligations.WindowLaw
  intro s b0 b1 b2 b3 b4 rest marker noTouch offered
  obtain ⟨⟨marker', noTouch'⟩, outs⟩ := Decoder.feedAll_window b0 b1 b2 b3 b4 marker noTouch
  exact ⟨_, run_of_bytes_eq_feedAll (bytes := [b0, b1, b2, b3, b4]) offered, rfl, marker'.trans marker,
    noTouch'.trans noTouch, congrArg (s.sink ++ ·) outs⟩

/-! ## Frames at marker position (R80 to R82) -/

/-- The frame of a marker, fed at marker position, emits its coordinates, whatever the latch and the registers were. -/
theorem Decoder.feedAll_frameBytes {d : Decoder} (marker : d.writeIndex = 0) {m : Byte} (valid : markerValue m = true)
    (x y : Coord) :
    d.feedAll (frameBytes m x y).toList =
      (⟨#v[highByte x, lowByte x, highByte y, lowByte y], 0, .none⟩,
        [.silent, .silent, .silent, .silent, ⟨some ⟨x, y, m == 0xC8⟩, false⟩]) := by
  have latched : (d.touchKind.classified m).accepting = true ∧
      (d.touchKind.classified m == .pressed) = (m == 0xC8) := by
    obtain rfl | rfl := markerValue_iff.mp valid <;> exact ⟨rfl, rfl⟩
  obtain ⟨accepted, pressed⟩ := latched
  rw [frameBytes_toList, Decoder.feedAll_accepted_window _ _ _ _ _ marker accepted, pressed, valid,
    append_high_low, append_high_low]
  rfl

/-- Settles O26: the frame of the press marker. -/
theorem pressFrameEmitsItsCoordinates : Obligations.PressFrameEmitsItsCoordinates := by
  unfold Obligations.PressFrameEmitsItsCoordinates
  intro x y s marker
  rw [exec_of_frame_eq_feedAll rfl, Instr.bytes, Decoder.feedAll_frameBytes marker rfl]
  rfl

/-- Settles O27: the frame of the release marker. -/
theorem releaseFrameEmitsItsCoordinates : Obligations.ReleaseFrameEmitsItsCoordinates := by
  unfold Obligations.ReleaseFrameEmitsItsCoordinates
  intro x y s marker
  rw [exec_of_frame_eq_feedAll rfl, Instr.bytes, Decoder.feedAll_frameBytes marker rfl]
  rfl

/-- Settles O28: with no touch latched the window is discarded; a stale latch is kept by the bad marker (R63), so the
window is accepted. -/
theorem junkFrameLeavesTheDecoderUnchanged : Obligations.JunkFrameLeavesTheDecoderUnchanged := by
  unfold Obligations.JunkFrameLeavesTheDecoderUnchanged
  intro m b1 b2 b3 b4 s marker press release
  have noMarker := markerValue_of_other press release
  rw [exec_of_frame_eq_feedAll rfl, Instr.bytes, junkBytes_toList]
  constructor
  · intro noTouch
    rw [Decoder.feedAll_discarded_window m b1 b2 b3 b4 marker noTouch noMarker]
    rfl
  · intro stale
    have kept := TouchKind.classified_of_other press release s.dec.touchKind
    have accepted : (s.dec.touchKind.classified m).accepting = true := by
      rw [kept]
      exact TouchKind.accepting_iff.mpr stale
    rw [Decoder.feedAll_accepted_window m b1 b2 b3 b4 marker accepted, kept, noMarker]
    rfl

/-! ## The closed form of a stream (R84) -/

/-- The outputs of the closed form, for every byte of the stream. -/
def closedFormOuts (bytes : List Byte) : List StepOut := (List.range bytes.length).map (closedFormOut bytes)

/-- Inside the payload of a window a byte is silent. -/
theorem Decoder.feed_in_payload {d : Decoder} (payload : d.writeIndex ≠ 0) (notLast : d.writeIndex ≠ 4) (b : Byte) :
    (d.feed b).2 = .silent ∧ (d.feed b).1.touchKind = d.touchKind := by
  have evt : (d.feed b).2.evt = none := by
    rw [d.feed_evt, if_neg fun h => notLast h.1]
  have diag : (d.feed b).2.diag = false := by
    rw [d.feed_diag, diagOf, beq_eq_false_iff_ne.mpr payload, Bool.and_false, Bool.false_and]
  exact ⟨congrArg₂ StepOut.mk evt diag, by rw [d.feed_touchKind, if_neg notLast, if_neg payload]⟩

/-- Bytes that end before their window does are silent and keep the latch. -/
theorem Decoder.feedAll_in_payload {d : Decoder} {bytes : List Byte} (payload : d.writeIndex ≠ 0)
    (unfinished : d.writeIndex.val + bytes.length ≤ 4) :
    (d.feedAll bytes).2 = List.replicate bytes.length .silent ∧ (d.feedAll bytes).1.touchKind = d.touchKind := by
  induction bytes generalizing d with
  | nil => exact ⟨rfl, rfl⟩
  | cons b bs ih =>
    rw [List.length_cons] at unfinished
    have notLast : d.writeIndex ≠ 4 := fun h => by
      have : d.writeIndex.val = 4 := congrArg Fin.val h
      omega
    have next : (d.feed b).1.writeIndex.val = d.writeIndex.val + 1 := by
      rw [Decoder.feed_writeIndex, nextIndex_val]
      omega
    obtain ⟨out, kind⟩ := Decoder.feed_in_payload payload notLast b
    obtain ⟨outs, kinds⟩ := ih (d := (d.feed b).1) (fun h => by rw [h] at next; cases next) (by omega)
    rw [Decoder.feedAll_cons, out, outs]
    exact ⟨rfl, kinds.trans kind⟩

/-- The closed form on a stream that does not fill its first window: `diag` on the first byte, and no event. -/
theorem closedFormOuts_of_short {b : Byte} {bytes : List Byte} (short : bytes.length < 4) :
    closedFormOuts (b :: bytes) = ⟨none, !markerValue b⟩ :: List.replicate bytes.length .silent := by
  have silent : ∀ n ∈ List.range bytes.length, closedFormOut (b :: bytes) (n + 1) = .silent := by
    intro n inside
    have bound := List.mem_range.mp inside
    have notLast : (n + 1) % 5 ≠ 4 := by omega
    have notFirst : (n + 1) % 5 ≠ 0 := by omega
    simp [closedFormOut, StepOut.silent, notLast, notFirst]
  rw [closedFormOuts, List.length_cons, List.range_succ_eq_map, List.map_cons, List.map_map]
  refine congrArg₂ List.cons rfl ?_
  exact List.eq_replicate_iff.mpr ⟨by simp, List.forall_mem_map.mpr silent⟩

section ClosedForm
variable (b0 b1 b2 b3 b4 : Byte) (bytes : List Byte)

theorem byteAt_window (n : Nat) : byteAt (b0 :: b1 :: b2 :: b3 :: b4 :: bytes) (n + 5) = byteAt bytes n := rfl

/-- The closed form reads bytes of the present window only, so a window in front shifts it. -/
theorem closedFormOut_window (n : Nat) :
    closedFormOut (b0 :: b1 :: b2 :: b3 :: b4 :: bytes) (n + 5) = closedFormOut bytes n := by
  by_cases last : n % 5 = 4
  · obtain ⟨m, rfl⟩ : ∃ m, n = m + 4 := ⟨n - 4, by omega⟩
    rw [closedFormOut, closedFormOut, Nat.add_mod_right]
    rfl
  · simp only [closedFormOut, Nat.add_mod_right, byteAt_window, last, false_and, if_false]

theorem closedFormOuts_window :
    closedFormOuts (b0 :: b1 :: b2 :: b3 :: b4 :: bytes) = windowOuts b0 b1 b2 b3 b4 ++ closedFormOuts bytes := by
  have shifted : (closedFormOut (b0 :: b1 :: b2 :: b3 :: b4 :: bytes) ∘ fun n => 5 + n) = closedFormOut bytes := by
    funext n
    rw [Function.comp, Nat.add_comm, closedFormOut_window]
  have first : (List.range 5).map (closedFormOut (b0 :: b1 :: b2 :: b3 :: b4 :: bytes)) = windowOuts b0 b1 b2 b3 b4 := by
    simp [List.range_succ, closedFormOut, byteAt, windowOuts, StepOut.silent]
  rw [closedFormOuts, show (b0 :: b1 :: b2 :: b3 :: b4 :: bytes).length = 5 + bytes.length from
    Nat.add_comm bytes.length 5,
    List.range_add, List.map_append, List.map_map, shifted, first, closedFormOuts]

theorem closedFormKind_window : closedFormKind (b0 :: b1 :: b2 :: b3 :: b4 :: bytes) = closedFormKind bytes := by
  have length : (b0 :: b1 :: b2 :: b3 :: b4 :: bytes).length = bytes.length + 5 := rfl
  have marker : bytes.length + 5 - bytes.length % 5 = bytes.length - bytes.length % 5 + 5 := by omega
  simp only [closedFormKind, length, Nat.add_mod_right, marker, byteAt_window]

end ClosedForm

/-- The closed form of the latch inside the first window is what its first byte was classified as. -/
theorem closedFormKind_of_short {b : Byte} {bytes : List Byte} (short : bytes.length < 4) :
    closedFormKind (b :: bytes) = TouchKind.none.classified b := by
  have mod : (bytes.length + 1) % 5 = bytes.length + 1 := Nat.mod_eq_of_lt (by omega)
  rw [closedFormKind, List.length_cons, mod, if_neg (Nat.succ_ne_zero _), Nat.sub_self]
  rfl

/-- R84: from `(0, None)` the outputs and the latch are the closed form of the bytes, window by window. -/
theorem Decoder.feedAll_closedForm (bytes : List Byte) : ∀ {d : Decoder}, d.writeIndex = 0 → d.touchKind = .none →
    (d.feedAll bytes).2 = closedFormOuts bytes ∧ (d.feedAll bytes).1.touchKind = closedFormKind bytes := by
  induction bytes using window_induction with
  | short bytes short =>
    intro d marker noTouch
    cases bytes with
    | nil => exact ⟨rfl, noTouch⟩
    | cons b bs =>
      have short' : bs.length < 4 := Nat.lt_of_succ_lt_succ short
      rw [Decoder.feedAll_cons, Decoder.feed_at_marker b marker, noTouch, closedFormOuts_of_short short',
        closedFormKind_of_short short']
      obtain ⟨outs, kind⟩ := Decoder.feedAll_in_payload (bytes := bs)
        (d := ⟨d.payload, 1, TouchKind.none.classified b⟩) Fin.zero_ne_one.symm (Nat.add_comm 1 _ ▸ short')
      exact ⟨congrArg _ outs, kind⟩
  | window b0 b1 b2 b3 b4 bytes ih =>
    intro d marker noTouch
    obtain ⟨⟨marker', noTouch'⟩, outs⟩ := Decoder.feedAll_window b0 b1 b2 b3 b4 marker noTouch
    obtain ⟨restOuts, restKind⟩ := ih (marker'.trans marker) (noTouch'.trans noTouch)
    rw [closedFormOuts_window, closedFormKind_window, ← outs, ← restOuts, ← restKind]
    have appended := d.feedAllWith_append Params.retainKindOnBadMarker [b0, b1, b2, b3, b4] bytes
    exact ⟨congrArg Prod.snd appended, congrArg (·.1.touchKind) appended⟩

/-- The events of the closed form: one for each complete window that a marker opens. -/
theorem length_eventsOf_closedFormOuts (bytes : List Byte) :
    (eventsOf (closedFormOuts bytes)).length =
      (List.range (bytes.length / 5)).countP fun j => markerValue (byteAt bytes (5 * j)) := by
  induction bytes using window_induction with
  | short bytes short =>
    rw [Nat.div_eq_of_lt short]
    cases bytes with
    | nil => rfl
    | cons b bs =>
      rw [closedFormOuts_of_short (Nat.lt_of_succ_lt_succ short)]
      simp [eventsOf, StepOut.silent]
  | window b0 b1 b2 b3 b4 bytes ih =>
    have windows : (b0 :: b1 :: b2 :: b3 :: b4 :: bytes).length / 5 = bytes.length / 5 + 1 :=
      Nat.add_div_right bytes.length (Nat.succ_pos 4)
    have window : (eventsOf (windowOuts b0 b1 b2 b3 b4)).length = if markerValue b0 then 1 else 0 := by
      cases valid : markerValue b0 <;> simp [eventsOf, windowOuts, StepOut.silent, valid]
    rw [closedFormOuts_window, windows, List.range_succ_eq_map, List.countP_cons, List.countP_map, eventsOf,
      List.filterMap_append, List.length_append, Nat.add_comm]
    exact congrArg₂ (· + ·) ih window

/-- Settles O45: a run over bytes is those bytes fed, and these have the closed form. -/
theorem closedFormOfEveryStream : Obligations.ClosedFormOfEveryStream := by
  unfold Obligations.ClosedFormOfEveryStream
  intro s bytes rest marker noTouch offered
  obtain ⟨outs, kind⟩ := Decoder.feedAll_closedForm bytes marker noTouch
  refine ⟨_, run_of_bytes_eq_feedAll offered, rfl, congrArg (s.sink ++ ·) outs, ?_, kind, ?_⟩
  · rw [Decoder.feedAllWith_writeIndex, marker, Fin.val_zero, Nat.zero_add]
  · rw [List.drop_left, outs, length_eventsOf_closedFormOuts]

/-! ## The spacing of events (R86) -/

/-- The byte that emits stands at the last position, counted from where the decoder started. -/
theorem Decoder.feedAll_evt_position {d : Decoder} {bytes : List Byte} {n : Nat} {e : TouchEvent}
    (emits : ((d.feedAll bytes).2[n]?.bind StepOut.evt) = some e) : (d.writeIndex.val + n) % 5 = 4 := by
  induction bytes generalizing d n with
  | nil => cases emits
  | cons b bs ih =>
    rw [Decoder.feedAll_cons] at emits
    cases n with
    | zero =>
      have emits' : (d.feed b).2.evt = some e := emits
      obtain ⟨last, -⟩ := (d.feed_evt_ne_none b).mp (by simp [emits'])
      rw [last]
      rfl
    | succ n =>
      have later := ih (d := (d.feed b).1) emits
      rw [Decoder.feed_writeIndex, nextIndex_val] at later
      omega

/-- Settles O46: both events stand at the last position. -/
theorem eventsAreMultiplesOfFiveApart : Obligations.EventsAreMultiplesOfFiveApart := by
  unfold Obligations.EventsAreMultiplesOfFiveApart
  intro s bytes rest offered
  refine ⟨_, _, run_of_bytes_eq_feedAll offered, rfl, Decoder.feedAllWith_length .., fun m n e f _ first second => ?_⟩
  have atM := Decoder.feedAll_evt_position first
  have atN := Decoder.feedAll_evt_position second
  omega

/-! ## Persistence of an offset (R87) -/

/-- Output `n` of the closed form carries an event exactly at the end of a window that a marker opens. -/
theorem closedFormOuts_evt_isSome_iff {bytes : List Byte} {n : Nat} (h : n < bytes.length) :
    ((closedFormOuts bytes)[n]?.bind StepOut.evt).isSome = true ↔
      n % 5 = 4 ∧ markerValue (byteAt bytes (n - 4)) = true := by
  have output : (closedFormOuts bytes)[n]? = some (closedFormOut bytes n) := by
    simp [closedFormOuts, h]
  rw [output, Option.bind_some, closedFormOut]
  split <;> simp [*]

theorem byteAt_append_left {as : List Byte} {n : Nat} (h : n < as.length) (bs : List Byte) :
    byteAt (as ++ bs) n = byteAt as n :=
  List.getD_append _ _ _ _ h

theorem byteAt_append_add (as bs : List Byte) (n : Nat) : byteAt (as ++ bs) (as.length + n) = byteAt bs n := by
  rw [byteAt, List.getD_append_right _ _ _ _ (Nat.le_add_right ..), Nat.add_sub_cancel_left]
  rfl

/-- Byte `r` of frame `q` in a list of frames. -/
theorem byteAt_flatMap {α : Type} {bytesOf : α → List Byte} (five : ∀ a, (bytesOf a).length = 5) (pad : α)
    {r : Nat} (hr : r < 5) {frames : List α} {q : Nat} (hq : q < frames.length) :
    byteAt (frames.flatMap bytesOf) (5 * q + r) = byteAt (bytesOf (frames.getD q pad)) r := by
  induction frames generalizing q with
  | nil => cases hq
  | cons a as ih =>
    rw [List.flatMap_cons]
    cases q with
    | zero => simpa using byteAt_append_left (hr.trans_eq (five a).symm) (as.flatMap bytesOf)
    | succ q =>
      rw [show 5 * (q + 1) + r = (bytesOf a).length + (5 * q + r) by rw [five]; omega, byteAt_append_add]
      exact ih (Nat.lt_of_succ_lt_succ hq)

/-- Settles O47: the closed form's marker positions, read in the stray bytes and in the frames behind them. -/
theorem streamOffsetPersists : Obligations.StreamOffsetPersists := by
  unfold Obligations.StreamOffsetPersists
  intro s stray frames marker noTouch nonempty few frameOf bytes offered
  have five : ∀ f, (frameOf f).length = 5 := fun _ => rfl
  have length : bytes.length = stray.length + 5 * frames.length := by
    simp [bytes, five, Nat.mul_comm]
  obtain ⟨outs, -⟩ := Decoder.feedAll_closedForm bytes marker noTouch
  refine ⟨_, _, run_of_bytes_eq_feedAll (offered.trans (List.append_nil _).symm), rfl, Decoder.feedAllWith_length ..,
    fun n hn => ?_⟩
  rw [outs, closedFormOuts_evt_isSome_iff hn]
  refine and_congr_right fun last => ?_
  split
  case isTrue firstWindow =>
    subst firstWindow
    rw [byteAt_append_left nonempty]
  case isFalse later =>
    have position : n - 4 = stray.length + (5 * ((n - 9) / 5) + (5 - stray.length)) := by omega
    rw [position, byteAt_append_add, byteAt_flatMap five (false, 0, 0) (by omega) (by omega)]

end Sys2Proof.Machine

/-!
PROOFS. Exceptions (spec/60_exceptions.md): what `diag` signals (R92), reset over a byte (R94), discarded windows (R96)
and several decoders (R100).
-/

namespace Sys2Proof.Machine

/-! ## Discarded windows (R96) -/

/-- The five bytes of a window, in the order fed. -/
def windowBytes (w : Byte × Byte × Byte × Byte × Byte) : List Byte := [w.1, w.2.1, w.2.2.1, w.2.2.2.1, w.2.2.2.2]

theorem length_flatMap_windowBytes (windows : List (Byte × Byte × Byte × Byte × Byte)) :
    (windows.flatMap windowBytes).length = 5 * windows.length := by
  have five : ∀ w, (windowBytes w).length = 5 := fun _ => rfl
  simp [five, Nat.mul_comm]

/-- The outputs of a discarded window: `diag` in the marker step, then silence. -/
def discardedWindowOuts : List StepOut := [⟨none, true⟩, .silent, .silent, .silent, .silent]

/-- The outputs of `n` discarded windows. -/
def discardedOuts (n : Nat) : List StepOut := (List.replicate n discardedWindowOuts).flatten

theorem eventsOf_discardedOuts (n : Nat) : eventsOf (discardedOuts n) = [] := by
  have noEvent : discardedWindowOuts.filterMap StepOut.evt = [] := rfl
  rw [eventsOf, discardedOuts, List.filterMap_flatten, List.map_replicate, noEvent, List.flatten_replicate_nil]

theorem countP_diag_discardedOuts (n : Nat) : (discardedOuts n).countP StepOut.diag = n := by
  have onePulse : discardedWindowOuts.countP StepOut.diag = 1 := rfl
  rw [discardedOuts, List.countP_flatten, List.map_replicate, onePulse, List.sum_replicate_nat, Nat.mul_one]

theorem Decoder.feedAll_append (d : Decoder) (as bs : List Byte) :
    d.feedAll (as ++ bs) =
      (((d.feedAll as).1.feedAll bs).1, (d.feedAll as).2 ++ ((d.feedAll as).1.feedAll bs).2) :=
  Decoder.feedAllWith_append ..

/-- Any number of discarded windows leaves the decoder as it was: each returns it to where the next one starts. -/
theorem Decoder.feedAll_discarded_windows {d : Decoder} (marker : d.writeIndex = 0) (noTouch : d.touchKind = .none)
    {windows : List (Byte × Byte × Byte × Byte × Byte)} (discarded : ∀ w ∈ windows, markerValue w.1 = false) :
    d.feedAll (windows.flatMap windowBytes) = (d, discardedOuts windows.length) := by
  induction windows with
  | nil => rfl
  | cons w ws ih =>
    obtain ⟨first, later⟩ := List.forall_mem_cons.mp discarded
    have window : d.feedAll (windowBytes w) = (d, discardedWindowOuts) :=
      Decoder.feedAll_discarded_window _ _ _ _ _ marker noTouch first
    rw [List.flatMap_cons, Decoder.feedAll_append, window, ih later]
    rfl

/-- Settles O50: the run feeds the windows' bytes, and these leave the decoder as it was. -/
theorem discardedWindowsLeaveNoTrace : Obligations.DiscardedWindowsLeaveNoTrace := by
  unfold Obligations.DiscardedWindowsLeaveNoTrace
  intro s windows rest marker noTouch noMarker offered
  have discarded : ∀ w ∈ windows, markerValue w.1 = false := fun w mem =>
    (noMarker w mem).elim markerValue_of_other
  have offered' : s.source = (windows.flatMap windowBytes).map Offer.byte ++ rest := by
    rw [offered, List.map_flatMap]
    rfl
  have ran := run_of_bytes_eq_feedAll offered'
  rw [length_flatMap_windowBytes, Decoder.feedAll_discarded_windows marker noTouch discarded] at ran
  exact ⟨_, ran, eventsOf_discardedOuts _, countP_diag_discardedOuts _⟩

/-! ## The diagnostic signal (R92) -/

theorem diagOf_iff {wi0 : WriteIndex} {b : Byte} : diagOf wi0 b = true ↔ wi0 = 0 ∧ b ≠ 0xC8 ∧ b ≠ 0x88 := by
  rw [← Params.isMarker_eq_false_iff]
  simp [diagOf, Params.hasDiag]

/-- Settles O33: RESET and HOLD are silent, and the `diag` of a byte step is `diagOf`. -/
theorem diagSignalsExactlyBadMarkers : Obligations.DiagSignalsExactlyBadMarkers := by
  unfold Obligations.DiagSignalsExactlyBadMarkers
  intro s p rest offered
  have silent : ¬ StepOut.silent.diag = true := Bool.false_ne_true
  obtain ⟨rst, stepped⟩ | ⟨rst, valid, stepped⟩ | ⟨rst, valid, stepped⟩ := step_of_sample offered
  · exact ⟨_, .silent, stepped, rfl, iff_of_false silent (by simp [rst])⟩
  · exact ⟨_, .silent, stepped, rfl, iff_of_false silent (by simp [valid])⟩
  · refine ⟨_, (s.dec.feed p.inByte).2, stepped, rfl, ?_⟩
    rw [Decoder.feed_diag, diagOf_iff]
    simp [rst, valid]

/-! ## Several decoders (R100) -/

/-- Where `next` is what every step answers, the step of decoder `k` is `next` applied at index `k` and nowhere else;
with no such index nothing changes. -/
theorem stepInstance_eq_modify {next : State → State} (steps : ∀ s, step s = .next (next s)) (ms : List State)
    (k : Nat) : stepInstance ms k = .next (ms.modify k next) := by
  rw [stepInstance, List.modify_eq_set_getElem?]
  cases ms[k]? with
  | none => rfl
  | some m => simp [steps]

/-- Settles O55: changes at two different indices of a list neither see each other nor depend on their order. -/
theorem instancesShareNothing : Obligations.InstancesShareNothing := by
  unfold Obligations.InstancesShareNothing
  obtain ⟨enabled, -, -⟩ := nothingEverStops
  choose next steps using enabled
  have stepped := stepInstance_eq_modify steps
  refine ⟨fun ms k m present => ?_, fun ms j k other => ?_⟩
  · refine ⟨next m, ms.modify k next, steps m, stepped ms k, ?_, fun j other => ?_⟩
    · rw [List.getElem?_modify_eq, present]
      rfl
    · exact List.getElem?_modify_ne _ _ other.symm
  · refine ⟨_, _, _, stepped ms j, stepped _ k, stepped ms k, ?_⟩
    rw [stepped, List.modify_modify_ne _ _ _ other]

/-! ## Reset and a byte in one step (R94) -/

/-- Settles O13: the offer selects RESET at every position, whatever its `in_valid` and `in_byte`. -/
theorem resetWinsOverAByte : Obligations.ResetWinsOverAByte := by
  unfold Obligations.ResetWinsOverAByte
  intro s valid b rest offered
  have selects : decode s.dec.writeIndex (.sample ⟨true, valid, b⟩) = .reset := rfl
  rw [step_of_source_cons offered, selects]

end Sys2Proof.Machine

/-!
PROOFS. Reset (spec/70_reset_and_hazards.md): what `RESET` leaves in the control fields and outputs, and in the data
registers (R110).
-/

namespace Sys2Proof.Machine

/-- Settles O24: the four bytes are those of the current draw, and the output is silent. -/
theorem resetReturnsToMarkerPosition : Obligations.ResetReturnsToMarkerPosition := by
  unfold Obligations.ResetReturnsToMarkerPosition
  intro s
  exact ⟨drawnPayload s.draws, s.draws + 1, exec_reset s⟩

/-- Settles O25: each register of the drawn payload holds the draw's free byte. -/
theorem resetDrawsTheNextFreeBytes : Obligations.ResetDrawsTheNextFreeBytes := by
  unfold Obligations.ResetDrawsTheNextFreeBytes
  intro s
  exact ⟨_, exec_reset s, rfl, drawnPayload_get s.draws⟩

end Sys2Proof.Machine
